-- ==== Sys2Proof/Word.lean ====
section
/-! DEFINITION. The value types of the CORE: byte, 16-bit word, 12-bit address, register and key number. -/

namespace Sys2Proof

/-- An 8-bit unsigned value: a general register, a timer, a memory cell, an immediate `nn` (R6, R92). -/
abbrev Byte := BitVec 8

/-- A 16-bit unsigned value: `pc`, `I`, a stack entry, an instruction word (R6, R90). -/
abbrev Word := BitVec 16

/-- A 12-bit address operand `nnn` (R91). -/
abbrev Addr := BitVec 12

/-- The number of a general register, the field `x` or `y` of an instruction (R21, R92). -/
abbrev Reg := Fin 16

/-- The number of a key of the keypad (R31). -/
abbrev KeyNum := Fin 16

/-- `VF` is the name of `V[15]`, the one flag of the hardware (R22). -/
abbrev VF : Reg := 15

end Sys2Proof
end

