-- ==== Sys2Proof/Config.lean ====
section
/-! DEFINITION. The parameters the spec leaves open (R7) with their defaults, the host's events, and the free inputs. -/

namespace Sys2Proof

/-- A host event (R286). -/
inductive Machine.HostEvent where
  | keyDown (k : KeyNum)
  | keyUp (k : KeyNum)
  | quit
deriving DecidableEq, Repr

/-- `RET_MODE`: whether `00EE` restores `pc` from the popped frame (R7, R150, D4). -/
inductive RetMode where
  | asObserved
  | restorePc
deriving DecidableEq, Repr

/-- `DRAW_EDGE_MODE`: what becomes of sprite pixels past an edge of the display (R7, R223 to R225, D5). -/
inductive DrawEdgeMode where
  | linear
  | wrap
  | clip
deriving DecidableEq, Repr

/-- The parameters of R7 that a rule depends on. They are fixed for one machine: no step changes them. -/
structure Config where
  /-- `RET_MODE`. -/
  retMode : RetMode
  /-- `DRAW_EDGE_MODE`. -/
  drawEdgeMode : DrawEdgeMode
  /-- `FONT`: `font[i]` is the reset content of `Mem[0x050 + i]` (R37). -/
  font : Vector Byte 80
deriving DecidableEq, Repr

/-- The default of `FONT`, glyph by glyph (R37).
PRESUMED (log 4): the spec itself supplies these bytes from general knowledge. -/
def Config.defaultFont : Vector Byte 80 :=
  #v[0xF0, 0x90, 0x90, 0x90, 0xF0,  0x20, 0x60, 0x20, 0x20, 0x70,
     0xF0, 0x10, 0xF0, 0x80, 0xF0,  0xF0, 0x10, 0xF0, 0x10, 0xF0,
     0x90, 0x90, 0xF0, 0x10, 0x10,  0xF0, 0x80, 0xF0, 0x10, 0xF0,
     0xF0, 0x80, 0xF0, 0x90, 0xF0,  0xF0, 0x10, 0x20, 0x40, 0x40,
     0xF0, 0x90, 0xF0, 0x90, 0xF0,  0xF0, 0x90, 0xF0, 0x10, 0xF0,
     0xF0, 0x90, 0xF0, 0x90, 0x90,  0xE0, 0x90, 0xE0, 0x90, 0xE0,
     0xF0, 0x80, 0x80, 0x80, 0xF0,  0xE0, 0x90, 0x90, 0x90, 0xE0,
     0xF0, 0x80, 0xF0, 0x80, 0xF0,  0xF0, 0x80, 0xF0, 0x80, 0x80]

/-- The defaults of R7. DESIGN CHOICE (log 3): `State.reset` carries them. -/
def Config.default : Config where
  retMode := .asObserved
  drawEdgeMode := .linear
  font := Config.defaultFont

/-! The inputs of step number `n`, where nothing has fixed them: free values, one constant for each (R121, R298; log 2). -/

/-- The reset line, a liberty of the host at any time (R298, R320). -/
opaque Config.freeReset : Nat → Bool

/-- The bytes written through the load port (R289). -/
opaque Config.freeLoads : Nat → List (Addr × Byte)

/-- `start` (R289). -/
opaque Config.freeStart : Nat → Bool

/-- `tick_due` (R247, D16). -/
opaque Config.freeTick : Nat → Bool

/-- The host events that arrive: any events, at any time and in any number (R286, D14). -/
opaque Config.freeEvents : Nat → List Machine.HostEvent

/-- `rnd` (R182, D13). -/
opaque Config.freeRnd : Nat → Byte

end Sys2Proof
end

