-- ==== Sys2Proof/Machine/State.lean ====
section
/-! DEFINITION. The state of the CORE as plain data (R20), the events and inputs that reach it, and the state after reset (R38). -/

namespace Sys2Proof.Machine

/-- `run_state` (R34). -/
inductive RunState where
  /-- After reset, before `start`. -/
  | idle
  /-- Slots run one after another. -/
  | running
  /-- `Fx0A` has executed and no key-down event has been taken yet. -/
  | waitKey
  /-- A fault was raised; terminal. -/
  | faulted
  /-- The quit signal was taken; terminal. -/
  | stopped
deriving DecidableEq, Repr

/-- The causes of R271, the values of `fault_cause`. -/
inductive FaultCause where
  /-- No fault recorded. -/
  | none
  /-- The fetch of any slot, `pc + 1 > 0xFFF`. -/
  | fetchOob
  /-- `2nnn` at `sp = 16`. -/
  | stackOverflow
  /-- `00EE` at `sp = 0`. -/
  | stackUnderflow
  /-- `Fx33`, `Fx55`, `Fx65`, `Dxyn`: a data address above 0xFFF. -/
  | memOob
  /-- `Ex9E`, `ExA1`: `V[x] > 15`. -/
  | keyIndex
  /-- `Dxyn` in linear mode: a set sprite bit with an index above 2047. -/
  | displayOob
  /-- Unreachable: all 16 groups are defined (R97). -/
  | unknownGroup
deriving DecidableEq, Repr

/-- What `raise Fault(c, info)` is given: the cause, and the offending value of R271's table. The value is for the host's
diagnostic and no state stores it (R272). -/
structure FaultReport where
  cause : FaultCause
  info : Nat
deriving DecidableEq, Repr

/-- What the outside supplies during one step: the input ports of R285 as abstract values, with `tick_due` (R121). -/
structure StepInput where
  /-- `reset` (R320). -/
  reset : Bool
  /-- Bytes written through the load port, in order; honoured only in IDLE (R289). -/
  loads : List (Addr × Byte)
  /-- `start` (R289). -/
  start : Bool
  /-- `tick_due` (R247). -/
  tickDue : Bool
  /-- The host events that arrived since the step before, in arrival order (R121, R286). -/
  events : List HostEvent
  /-- `rnd` (R292). -/
  rnd : Byte
deriving DecidableEq, Repr

/-- The memory bank: the bytes that differ from the reset contents, in rising order of address (R29, R60). -/
abbrev Memory := List Host.Cell

/-- The display buffer: 32 rows of 64 bits. The cell at column `cx` and row `cy` is bit `cx` of row `cy` (R30). -/
abbrev Display := Vector (BitVec 64) 32

/-- The whole state. The fields down to `pending` are the spec's (R20, R286); `frameReady`, `cfg`, `script` and `time` are the
model's own (log 1, log 3, log 13). -/
structure State where
  /-- `V[0..15]` (R21). -/
  v : Vector Byte 16
  /-- `I` (R23). -/
  index : Word
  /-- `pc` (R25). -/
  pc : Word
  /-- `sp`, in [0, 16] (R28). -/
  sp : Fin 17
  /-- `stack[0..15]` (R27). -/
  stack : Vector Word 16
  /-- `Mem[0..4095]` (R29). -/
  mem : Memory
  /-- `Disp[0..2047]` (R30). -/
  disp : Display
  /-- `Key[0..15]` (R31). -/
  key : Vector Bool 16
  /-- `DT` (R32). -/
  dt : Byte
  /-- `ST` (R32). -/
  st : Byte
  /-- `IR` (R33). -/
  ir : Word
  /-- `run_state` (R34). -/
  runState : RunState
  /-- `fault_cause` (R35). -/
  faultCause : FaultCause
  /-- `fault_pc` (R35). -/
  faultPc : Word
  /-- The host events that have arrived and have not been taken, oldest first (R286, R131). -/
  pending : List HostEvent
  /-- The output `frame_ready` as the last step left it (R228; log 13). -/
  frameReady : Bool
  /-- The parameters of R7; no step changes them (log 3). -/
  cfg : Config
  /-- The inputs already fixed for the coming steps, oldest first; behind them every input is free (log 1, log 2). -/
  script : List StepInput
  /-- The number of steps taken, the index of the free inputs (log 1). -/
  time : Nat
deriving DecidableEq, Repr

/-- Why a step has no state after it. There is no such reason on this hardware: R270's fault is a state (FAULTED with its
record, R272), which a step answers with `next`, and every slot has a next state (R121). The type is empty, which is safe:
no step can hide behind it (log 5). -/
inductive Fault : Type
deriving DecidableEq, Repr

/-- Why the model gives no meaning. -/
inductive Refusal where
  /-- Raised only by an arm of `exec` whose instruction has no meaning yet; safe. No arm raises it. -/
  | notModelled (mnemonic : String)
deriving DecidableEq, Repr

/-- What a step of this machine answers. -/
abbrev Outcome := Host.Outcome State Fault Refusal

/-- The state after reset (R38). The values of `frameReady`, `cfg`, `script` and `time` are the model's (log 1, log 3, log 4, log 13). -/
def State.reset : State where
  v := Vector.replicate 16 0x00
  index := 0x0000
  pc := 0x0200
  sp := 0
  stack := Vector.replicate 16 0x0000
  mem := []
  disp := Vector.replicate 32 0
  key := Vector.replicate 16 false
  dt := 0x00
  st := 0x00
  ir := 0x0000
  runState := .idle
  faultCause := .none
  faultPc := 0x0000
  pending := []
  frameReady := false
  cfg := Config.default
  script := []
  time := 0

end Sys2Proof.Machine
end

