-- ==== Sys2Proof/Machine/Ops.lean ====
section
/-! DEFINITION. The named operations over memory, registers, stack, display, keypad and timers, and raising a fault. -/

namespace Sys2Proof.Machine

/-! ## Memory -/

/-- What an address that memory does not list reads as: its content after reset, the font or zero (R37, R38, R61).
Nothing reads an address above 0xFFF: every access is checked first (R66, R124). -/
def unlisted (font : Vector Byte 80) (a : Nat) : Byte :=
  if h : 0x050 ≤ a ∧ a < 0x0A0 then font[a - 0x050] else 0x00

/-- The byte at an address. -/
def Memory.get (font : Vector Byte 80) (a : Nat) : Memory → Byte
  | [] => unlisted font a
  | c :: m => if c.1 = a then c.2 else Memory.get font a m

/-- `m` with `b` listed at `a`. -/
def Memory.insert (a : Nat) (b : Byte) : Memory → Memory
  | [] => [(a, b)]
  | c :: m => if a < c.1 then (a, b) :: c :: m else if a = c.1 then (a, b) :: m else c :: Memory.insert a b m

/-- `m` with nothing listed at `a`. -/
def Memory.erase (a : Nat) (m : Memory) : Memory := m.filter fun c => c.1 ≠ a

/-- `m` with the byte at `a` set to `b`, in canonical form. There is no cell above 0xFFF (R60). -/
def Memory.put (font : Vector Byte 80) (a : Nat) (b : Byte) (m : Memory) : Memory :=
  if a > 0xFFF then m else if b = unlisted font a then Memory.erase a m else Memory.insert a b m

/-- The canonical form: addresses strictly rising and inside 0x000 to 0xFFF, no entry equal to the reset content. -/
abbrev Memory.wf (font : Vector Byte 80) (m : Memory) : Prop :=
  m.Pairwise (fun c d => c.1 < d.1) ∧ ∀ c ∈ m, c.1 ≤ 0xFFF ∧ c.2 ≠ unlisted font c.1

/-- `Mem[a]`, for an address that has been checked. -/
def State.byteAt (s : State) (a : Nat) : Byte := s.mem.get s.cfg.font a

/-- `Mem[a] <- b`, for an address that has been checked. -/
def State.storeByte (s : State) (a : Nat) (b : Byte) : State := { s with mem := s.mem.put s.cfg.font a b }

/-! ## Registers -/

/-- `V[r]` (R21). -/
def State.reg (s : State) (r : Reg) : Byte := s.v[r]

/-- `V[r] <- b` (R21). -/
def State.setReg (s : State) (r : Reg) (b : Byte) : State := { s with v := s.v.set r b }

/-- `I <- a` (R23). -/
def State.setIndex (s : State) (a : Word) : State := { s with index := a }

/-- `pc <- a` (R25). -/
def State.setPc (s : State) (a : Word) : State := { s with pc := a }

/-- `run_state <- r` (R34). -/
def State.setRun (s : State) (r : RunState) : State := { s with runState := r }

/-- `DT <- b` (R32). -/
def State.setDt (s : State) (b : Byte) : State := { s with dt := b }

/-- `ST <- b` (R32). -/
def State.setSt (s : State) (b : Byte) : State := { s with st := b }

/-- The skip of a conditional: `if c then pc <- pc + 2`, on top of the base advance (R125, R154). -/
def State.skipIf (s : State) (c : Bool) : State := if c then s.setPc (s.pc + 2) else s

/-! ## Call stack -/

/-- `stack[sp] <- a; sp <- sp + 1`, or nothing when the stack is full (R28, R152). -/
def State.push (s : State) (a : Word) : Option State :=
  if h : s.sp.val < 16 then some { s with stack := s.stack.set s.sp.val a, sp := ⟨s.sp.val + 1, by omega⟩ } else none

/-- `sp <- sp - 1`, with the entry popped, which is not erased; nothing when the stack is empty (R27, R28, R150). -/
def State.pop (s : State) : Option (Word × State) :=
  if h : 0 < s.sp.val then some (s.stack[s.sp.val - 1], { s with sp := ⟨s.sp.val - 1, by omega⟩ }) else none

/-! ## Display -/

/-- `Disp[k]`, column `k mod 64` of row `k / 64` (R30). -/
def Display.cell (d : Display) (k : Nat) : Bool :=
  if h : k / 64 < 32 then (d[k / 64]).getLsbD (k % 64) else false

/-- `Disp[k] <- Disp[k] xor 1` (R221). -/
def Display.flip (d : Display) (k : Nat) : Display :=
  if h : k / 64 < 32 then d.set (k / 64) (d[k / 64] ^^^ (1#64 <<< (k % 64))) else d

/-- All 2048 cells 0 (R220). -/
def Display.blank : Display := Vector.replicate 32 0

/-- The display buffer replaced. -/
def State.setDisp (s : State) (d : Display) : State := { s with disp := d }

/-! ## Keypad and timers -/

/-- `Key[k] = 1` (R31). -/
def State.keyPressed (s : State) (k : KeyNum) : Bool := s.key[k]

/-- `Key[k] <- b` (R287). -/
def State.setKey (s : State) (k : KeyNum) (b : Bool) : State := { s with key := s.key.set k b }

/-- One count of a timer, floored at 0, if a tick is due (R122, R246). A timer at 0 does not depend on the tick. -/
def tickIf (due : Bool) (c : Byte) : Byte := if c = 0 then 0 else if due then c - 1 else c

/-- `Tick()` (R246). -/
def State.tick (s : State) : State := { s with dt := tickIf true s.dt, st := tickIf true s.st }

/-! ## Inputs of the present step -/

/-- The inputs of step number `n` where none are fixed: every one of them is free (R121, R286, R298; log 2). -/
def StepInput.free (n : Nat) : StepInput where
  reset := Config.freeReset n
  loads := Config.freeLoads n
  start := Config.freeStart n
  tickDue := Config.freeTick n
  events := Config.freeEvents n
  rnd := Config.freeRnd n

/-- What the outside supplies during the present step (R121). -/
def State.input (s : State) : StepInput :=
  match s.script with
  | inp :: _ => inp
  | [] => StepInput.free s.time

/-- `RandomByte()`: the input `rnd` of the present step (R182, R292). -/
def State.randomByte (s : State) : Byte := s.input.rnd

/-! ## Taking a fault, and leaving it

There is no return from a fault (R275): the only way out of FAULTED is reset. -/

/-- `raise Fault(c, info)` for the instruction at address `a` (R272): the state phase X began with, which holds `pc = a`, with the
fault recorded. `info` is not stored. -/
def State.raiseAt (s : State) (a : Word) (r : FaultReport) : State :=
  { s with pc := a, runState := .faulted, faultCause := r.cause, faultPc := a }

/-- The address of the instruction that executes, behind the base advance of R125. -/
def State.instrAddr (s : State) : Word := s.pc - 2

/-- `raise Fault(c, info)` in an instruction, which has written nothing yet (R128): the advance of `pc` is undone. -/
def State.raise (s : State) (r : FaultReport) : State := s.raiseAt s.instrAddr r

/-- The reset line: every piece of the hardware at its reset value, from any state (R320). The parameters, and the inputs and time of the
world outside, are not the hardware's (log 12). -/
def State.assertReset (s : State) : State :=
  { State.reset with cfg := s.cfg, script := s.script, time := s.time }

/-! ## Output ports (R285) -/

/-- `sound_active = (ST != 0)` (R291). -/
def State.soundActive (s : State) : Bool := s.st != 0

/-- The frame port: `fb_data = Disp[fb_addr]` (R290). -/
def State.frameData (s : State) (a : BitVec 11) : Bool := s.disp.cell a.toNat

/-- The codes of `run_state` on its port (R285). -/
def RunState.code : RunState → BitVec 3
  | .idle => 0
  | .running => 1
  | .waitKey => 2
  | .faulted => 3
  | .stopped => 4

/-- The codes of `fault_cause` (R271). -/
def FaultCause.code : FaultCause → BitVec 4
  | .none => 0
  | .fetchOob => 1
  | .stackOverflow => 2
  | .stackUnderflow => 3
  | .memOob => 4
  | .keyIndex => 5
  | .displayOob => 6
  | .unknownGroup => 7

end Sys2Proof.Machine
end

