-- ==== Sys2Proof/Machine/Operands.lean ====
section
/-! DEFINITION. The operand forms (R92): immediates, effective addresses, register blocks, key numbers, sprite rows. -/

namespace Sys2Proof.Machine

/-- `zext_16(nnn)` (R92). -/
def zext16 (nnn : Addr) : Word := nnn.setWidth 16

/-- The effective address `I + i`, not masked (`43_index_memory.md`). -/
def State.dataAddr (s : State) (i : Nat) : Nat := s.index.toNat + i

/-- The check before the data access to `I` up to `I + count - 1`: MEM_OOB, with the largest address, when that lies above 0xFFF
(R66, R271). -/
def State.dataFault (s : State) (count : Nat) : Option FaultReport :=
  if count > 0 ∧ s.dataAddr (count - 1) > 0xFFF then some ⟨.memOob, s.dataAddr (count - 1)⟩ else none

/-- `Mem[I + i] <- V[i]` for `i` from 0 up to `count - 1`, in that order (R204). -/
def State.storeRegs (s : State) : Nat → State
  | 0 => s
  | k + 1 => (s.storeRegs k).storeByte (s.dataAddr k) (s.reg (Fin.ofNat 16 k))

/-- `V[i] <- Mem[I + i]` for `i` from 0 up to `count - 1`, in that order (R205). -/
def State.loadRegs (s : State) : Nat → State
  | 0 => s
  | k + 1 => (s.loadRegs k).setReg (Fin.ofNat 16 k) (s.byteAt (s.dataAddr k))

/-- The key number in `V[x]`: KEY_INDEX, with the value, when it is above 15 (R240, R241). -/
def State.keyOperand (s : State) (x : Reg) : Except FaultReport KeyNum :=
  if h : (s.reg x).toNat < 16 then .ok ⟨(s.reg x).toNat, h⟩ else .error ⟨.keyIndex, (s.reg x).toNat⟩

/-- The decimal digits of a byte: hundreds, tens, units (R203). -/
def hundreds (b : Byte) : Byte := BitVec.ofNat 8 (b.toNat / 100)
def tens (b : Byte) : Byte := BitVec.ofNat 8 (b.toNat / 10 % 10)
def units (b : Byte) : Byte := BitVec.ofNat 8 (b.toNat % 10)

/-- The address of the glyph for a digit, the digit not masked (R202). -/
def glyphAddr (b : Byte) : Word := BitVec.ofNat 16 (0x050 + b.toNat * 5)

/-- The sprite's rows, `row[r] = Mem[I + r]`, top row first (R222). -/
def State.spriteRows (s : State) (height : Nat) : List Byte :=
  (List.range height).map fun r => s.byteAt (s.dataAddr r)

end Sys2Proof.Machine
end

