-- ==== Sys2Proof/Machine/ControlFlow.lean ====
section
/-! DEFINITION. The meanings of the control-transfer instructions (`41_control_flow.md`). In every meaning `pc` is the address
behind the base advance of R125. -/

namespace Sys2Proof.Machine

/-- RET, `00EE` (R150). -/
def execRet (s : State) : Outcome :=
  match s.pop with
  | none => .next (s.raise ⟨.stackUnderflow, s.instrAddr.toNat⟩)
  | some (a, s') =>
    match s.cfg.retMode with
    | .asObserved => .next s'
    | .restorePc => .next (s'.setPc a)

/-- JP, `1nnn` (R151). -/
def execJp (nnn : Addr) (s : State) : Outcome := .next (s.setPc (zext16 nnn))

/-- CALL, `2nnn` (R152). -/
def execCall (nnn : Addr) (s : State) : Outcome :=
  match s.push s.pc with
  | none => .next (s.raise ⟨.stackOverflow, s.instrAddr.toNat⟩)
  | some s' => .next (s'.setPc (zext16 nnn))

/-- JP_V0, `Bnnn`: a 16-bit sum, not masked (R153). -/
def execJpV0 (nnn : Addr) (s : State) : Outcome := .next (s.setPc (zext16 nnn + (s.reg 0).setWidth 16))

/-- SE_IMM, `3xnn` (R154). -/
def execSeImm (x : Reg) (nn : Byte) (s : State) : Outcome := .next (s.skipIf (s.reg x == nn))

/-- SNE_IMM, `4xnn` (R155). -/
def execSneImm (x : Reg) (nn : Byte) (s : State) : Outcome := .next (s.skipIf (s.reg x != nn))

/-- SE_REG, `5xy_`; `n` is ignored (R95, R156). -/
def execSeReg (x y : Reg) (_n : BitVec 4) (s : State) : Outcome := .next (s.skipIf (s.reg x == s.reg y))

/-- SNE_REG, `9xy_`; `n` is ignored (R95, R157). -/
def execSneReg (x y : Reg) (_n : BitVec 4) (s : State) : Outcome := .next (s.skipIf (s.reg x != s.reg y))

end Sys2Proof.Machine
end

