-- ==== Sys2Proof/Machine/Flags.lean ====
section
/-! DEFINITION. Every value an instruction writes to `VF` as a flag, but for the collision of `Dxyn` (R22). -/

namespace Sys2Proof.Machine

/-- A flag as a register value: 1 or 0 (R22). -/
def flagByte (b : Bool) : Byte := if b then 1 else 0

/-- `8xy4`: 1 if the sum exceeds 255 (R177). -/
def carryOut (a b : Byte) : Bool := decide (a.toNat + b.toNat > 255)

/-- `8xy5`, `8xy7`: 1 when `a - b` needs no borrow (R178, R180). -/
def noBorrow (a b : Byte) : Bool := decide (a.toNat ≥ b.toNat)

/-- `8xy6`: the bit shifted out to the right (R179). -/
def shiftedOutRight (a : Byte) : Bool := a.getLsbD 0

/-- `8xyE`: the bit shifted out to the left (R181). -/
def shiftedOutLeft (a : Byte) : Bool := a.getLsbD 7

/-- `Fx1E`: the untruncated sum leaves the 12-bit range (R201). -/
def indexOverflow (i : Word) (a : Byte) : Bool := decide (i.toNat + a.toNat > 0xFFF)

end Sys2Proof.Machine
end

