-- ==== Sys2Proof/Machine/Display.lean ====
section
/-! DEFINITION. The meanings of the display instructions and the XOR sprite compositor (`44_display.md`). -/

namespace Sys2Proof.Machine

/-- CLS, `00E0` (R220). -/
def execCls (s : State) : Outcome := .next (s.setDisp Display.blank)

/-- The set bits of one sprite byte, `(r, c)` with `row[r][7-c] = 1`: column 0 is bit 7 (R221). -/
def rowPixels (r : Nat) (row : Byte) : List (Nat × Nat) :=
  ((List.range 8).filter fun c => row.getLsbD (7 - c)).map fun c => (r, c)

/-- The set bits of the rows from row `r` on, row by row, column by column (R221). -/
def pixelsFrom (r : Nat) : List Byte → List (Nat × Nat)
  | [] => []
  | row :: rows => rowPixels r row ++ pixelsFrom (r + 1) rows

/-- The flat index of the sprite bit `(r, c)`, `(x0 + c) + (y0 + r) * 64` (R223). -/
def linearIndex (x0 y0 : Nat) (p : Nat × Nat) : Nat := (x0 + p.2) + (y0 + p.1) * 64

/-- `CellIndex` by `DRAW_EDGE_MODE`: the cell the sprite bit `(r, c)` lands on, if any (R223, R224, R225). -/
def cellIndex (mode : DrawEdgeMode) (x0 y0 : Nat) (p : Nat × Nat) : Option Nat :=
  match mode with
  | .linear => if linearIndex x0 y0 p ≤ 2047 then some (linearIndex x0 y0 p) else none
  | .wrap => some ((x0 + p.2) % 64 + (y0 + p.1) % 32 * 64)
  | .clip => if x0 + p.2 ≥ 64 ∨ y0 + p.1 ≥ 32 then none else some (linearIndex x0 y0 p)

/-- The cells the sprite's set bits land on, in drawing order (R221). -/
def spriteCells (mode : DrawEdgeMode) (x0 y0 : Nat) (rows : List Byte) : List Nat :=
  (pixelsFrom 0 rows).filterMap (cellIndex mode x0 y0)

/-- DISPLAY_OOB in linear mode: the index of the first set bit that maps above 2047 (R221, R223; log 18). -/
def displayFault (mode : DrawEdgeMode) (x0 y0 : Nat) (rows : List Byte) : Option FaultReport :=
  match mode with
  | .linear => ((pixelsFrom 0 rows).find? fun p => linearIndex x0 y0 p > 2047).map fun p => ⟨.displayOob, linearIndex x0 y0 p⟩
  | .wrap | .clip => none

/-- One set bit over cell `k`: a cell that is 1 is a collision, and the cell is flipped (R221). -/
def drawCell (a : Display × Bool) (k : Nat) : Display × Bool := (a.1.flip k, a.2 || a.1.cell k)

/-- The buffer and the collision flag after the cells have been drawn, the flag having been reset first (R221, R227). -/
def composite (d : Display) (cells : List Nat) : Display × Bool := cells.foldl drawCell (d, false)

/-- `x0`, the sprite's origin column (R221). -/
def State.originX (s : State) (x : Reg) : Nat := (s.reg x).toNat % 64

/-- `y0`, the sprite's origin row (R221). -/
def State.originY (s : State) (y : Reg) : Nat := (s.reg y).toNat % 32

/-- The cells a `Dxyn` touches (R221, R226). -/
def State.drawnCells (s : State) (x y : Reg) (n : BitVec 4) : List Nat :=
  spriteCells s.cfg.drawEdgeMode (s.originX x) (s.originY y) (s.spriteRows n.toNat)

/-- The fault of a `Dxyn`, if it has one: MEM_OOB before DISPLAY_OOB (R221, R273). -/
def State.drawFault (s : State) (x y : Reg) (n : BitVec 4) : Option FaultReport :=
  match s.dataFault n.toNat with
  | some r => some r
  | none => displayFault s.cfg.drawEdgeMode (s.originX x) (s.originY y) (s.spriteRows n.toNat)

/-- DRW, `Dxyn` (R221). The origin and the rows are read before `VF` is written (log 9). -/
def execDrw (x y : Reg) (n : BitVec 4) (s : State) : Outcome :=
  match s.drawFault x y n with
  | some r => .next (s.raise r)
  | none =>
    let a := composite s.disp (s.drawnCells x y n)
    .next ((s.setDisp a.1).setReg VF (flagByte a.2))

end Sys2Proof.Machine
end

