-- ==== Sys2Proof/Machine/Ignored.lean ====
section
/-! DEFINITION. The meanings of the four ignored classes (`46_ignored_encodings.md`): nothing, behind the fetch and the advance. -/

namespace Sys2Proof.Machine

/-- NOP0 (R260). -/
def execNop0 (_nnn : Addr) (s : State) : Outcome := .next s

/-- NOP8 (R261). -/
def execNop8 (_x _y : Reg) (_n : BitVec 4) (s : State) : Outcome := .next s

/-- NOPE (R262). -/
def execNopE (_x : Reg) (_nn : Byte) (s : State) : Outcome := .next s

/-- NOPF (R263). -/
def execNopF (_x : Reg) (_nn : Byte) (s : State) : Outcome := .next s

end Sys2Proof.Machine
end

