-- ==== Sys2Proof/Machine/IndexMemory.lean ====
section
/-! DEFINITION. The meanings of the index-register and memory instructions (`43_index_memory.md`). -/

namespace Sys2Proof.Machine

/-- LD_I, `Annn` (R200). -/
def execLdI (nnn : Addr) (s : State) : Outcome := .next (s.setIndex (zext16 nnn))

/-- ADD_I, `Fx1E`: the flag first, then the sum with the register as the flag left it (R170, R201). -/
def execAddI (x : Reg) (s : State) : Outcome :=
  let s1 := s.setReg VF (flagByte (indexOverflow s.index (s.reg x)))
  .next (s1.setIndex ((s1.index + (s1.reg x).setWidth 16) &&& 0x0FFF))

/-- LD_F, `Fx29` (R202). -/
def execLdF (x : Reg) (s : State) : Outcome := .next (s.setIndex (glyphAddr (s.reg x)))

/-- LD_B, `Fx33` (R203). -/
def execLdB (x : Reg) (s : State) : Outcome :=
  match s.dataFault 3 with
  | some r => .next (s.raise r)
  | none =>
    .next (((s.storeByte (s.dataAddr 0) (hundreds (s.reg x))).storeByte (s.dataAddr 1) (tens (s.reg x))).storeByte
      (s.dataAddr 2) (units (s.reg x)))

/-- ST_REGS, `Fx55` (R204). -/
def execStRegs (x : Reg) (s : State) : Outcome :=
  match s.dataFault (x.val + 1) with
  | some r => .next (s.raise r)
  | none => .next (s.storeRegs (x.val + 1))

/-- LD_REGS, `Fx65` (R205). -/
def execLdRegs (x : Reg) (s : State) : Outcome :=
  match s.dataFault (x.val + 1) with
  | some r => .next (s.raise r)
  | none => .next (s.loadRegs (x.val + 1))

end Sys2Proof.Machine
end

