-- ==== Sys2Proof/Machine/KeypadTimers.lean ====
section
/-! DEFINITION. The meanings of the keypad and timer instructions (`45_keypad_timers.md`). -/

namespace Sys2Proof.Machine

/-- SKP, `Ex9E` (R240). -/
def execSkp (x : Reg) (s : State) : Outcome :=
  match s.keyOperand x with
  | .error r => .next (s.raise r)
  | .ok k => .next (s.skipIf (s.keyPressed k))

/-- SKNP, `ExA1` (R241). -/
def execSknp (x : Reg) (s : State) : Outcome :=
  match s.keyOperand x with
  | .error r => .next (s.raise r)
  | .ok k => .next (s.skipIf (!s.keyPressed k))

/-- LD_VX_DT, `Fx07` (R243). -/
def execLdVxDt (x : Reg) (s : State) : Outcome := .next (s.setReg x s.dt)

/-- LD_VX_K, `Fx0A`, the part in its own slot: the wait begins. `V[x]` is written by the wake-up step, which takes `x` from `IR`
(R131, R242). -/
def execLdVxK (_x : Reg) (s : State) : Outcome := .next (s.setRun .waitKey)

/-- LD_DT_VX, `Fx15` (R244). -/
def execLdDtVx (x : Reg) (s : State) : Outcome := .next (s.setDt (s.reg x))

/-- LD_ST_VX, `Fx18` (R245). -/
def execLdStVx (x : Reg) (s : State) : Outcome := .next (s.setSt (s.reg x))

end Sys2Proof.Machine
end

