-- ==== Sys2Proof/Machine/LoadArith.lean ====
section
/-! DEFINITION. The meanings of the load, arithmetic, logic, shift and random instructions (`42_load_arith.md`). The statements of a
rule run in the order written, each on the state the earlier ones left (R170; log 7). -/

namespace Sys2Proof.Machine

/-- LD_IMM, `6xnn` (R171). -/
def execLdImm (x : Reg) (nn : Byte) (s : State) : Outcome := .next (s.setReg x nn)

/-- ADD_IMM, `7xnn`: no flag (R172). -/
def execAddImm (x : Reg) (nn : Byte) (s : State) : Outcome := .next (s.setReg x (s.reg x + nn))

/-- LD_REG, `8xy0` (R173). -/
def execLdReg (x y : Reg) (s : State) : Outcome := .next (s.setReg x (s.reg y))

/-- OR, `8xy1` (R174). -/
def execOrReg (x y : Reg) (s : State) : Outcome := .next (s.setReg x (s.reg x ||| s.reg y))

/-- AND, `8xy2` (R175). -/
def execAndReg (x y : Reg) (s : State) : Outcome := .next (s.setReg x (s.reg x &&& s.reg y))

/-- XOR, `8xy3` (R176). -/
def execXorReg (x y : Reg) (s : State) : Outcome := .next (s.setReg x (s.reg x ^^^ s.reg y))

/-- `VF <- f; V[x] <- result`, where `result` reads the registers that the write of the flag left (R170). -/
def State.flagThen (s : State) (f : Bool) (x : Reg) (result : State → Byte) : State :=
  let s1 := s.setReg VF (flagByte f)
  s1.setReg x (result s1)

/-- ADD_REG, `8xy4`: the sum is formed before the flag is written (R177). -/
def execAddReg (x y : Reg) (s : State) : Outcome :=
  let sum := s.reg x + s.reg y
  .next (s.flagThen (carryOut (s.reg x) (s.reg y)) x fun _ => sum)

/-- SUB, `8xy5` (R178). -/
def execSub (x y : Reg) (s : State) : Outcome :=
  .next (s.flagThen (noBorrow (s.reg x) (s.reg y)) x fun s1 => s1.reg x - s1.reg y)

/-- SHR, `8xy6`: `V[y]` is not read (R179). -/
def execShr (x _y : Reg) (s : State) : Outcome :=
  .next (s.flagThen (shiftedOutRight (s.reg x)) x fun s1 => s1.reg x >>> 1)

/-- SUBN, `8xy7` (R180). -/
def execSubn (x y : Reg) (s : State) : Outcome :=
  .next (s.flagThen (noBorrow (s.reg y) (s.reg x)) x fun s1 => s1.reg y - s1.reg x)

/-- SHL, `8xyE`: `V[y]` is not read (R181). -/
def execShl (x _y : Reg) (s : State) : Outcome :=
  .next (s.flagThen (shiftedOutLeft (s.reg x)) x fun s1 => s1.reg x <<< 1)

/-- RND, `Cxnn` (R182). -/
def execRnd (x : Reg) (nn : Byte) (s : State) : Outcome := .next (s.setReg x (s.randomByte &&& nn))

end Sys2Proof.Machine
end

