-- ==== Sys2Proof/Syntax.lean ====
section
/-! DEFINITION. The instructions: one constructor per row of the opcode map (R94), 38 in all. -/

namespace Sys2Proof

/-- One constructor per row of `spec/opcode_table.json`. A field the row ignores (R95: `n` of `5xy_` and `9xy_`, `y`
of `8xy6` and `8xyE`, the free bits of the four ignored classes) is kept as the constructor's last arguments: it makes
the syntax a faithful copy of the word, and no meaning reads it. -/
inductive Instr where
  /-- `00E0` -/
  | cls
  /-- `00EE` -/
  | ret
  /-- `0nnn`, the other words of group 0 -/
  | nop0 (nnn : Addr)
  /-- `1nnn` -/
  | jp (nnn : Addr)
  /-- `2nnn` -/
  | call (nnn : Addr)
  /-- `3xnn` -/
  | seImm (x : Reg) (nn : Byte)
  /-- `4xnn` -/
  | sneImm (x : Reg) (nn : Byte)
  /-- `5xy_`, `n` ignored -/
  | seReg (x y : Reg) (n : BitVec 4)
  /-- `6xnn` -/
  | ldImm (x : Reg) (nn : Byte)
  /-- `7xnn` -/
  | addImm (x : Reg) (nn : Byte)
  /-- `8xy0` -/
  | ldReg (x y : Reg)
  /-- `8xy1` -/
  | orReg (x y : Reg)
  /-- `8xy2` -/
  | andReg (x y : Reg)
  /-- `8xy3` -/
  | xorReg (x y : Reg)
  /-- `8xy4` -/
  | addReg (x y : Reg)
  /-- `8xy5` -/
  | sub (x y : Reg)
  /-- `8xy6`, `y` ignored -/
  | shr (x y : Reg)
  /-- `8xy7` -/
  | subn (x y : Reg)
  /-- `8xyE`, `y` ignored -/
  | shl (x y : Reg)
  /-- `8xyn`, `n` in 8, 9, A, B, C, D, F -/
  | nop8 (x y : Reg) (n : BitVec 4)
  /-- `9xy_`, `n` ignored -/
  | sneReg (x y : Reg) (n : BitVec 4)
  /-- `Annn` -/
  | ldI (nnn : Addr)
  /-- `Bnnn` -/
  | jpV0 (nnn : Addr)
  /-- `Cxnn` -/
  | rnd (x : Reg) (nn : Byte)
  /-- `Dxyn` -/
  | drw (x y : Reg) (n : BitVec 4)
  /-- `Ex9E` -/
  | skp (x : Reg)
  /-- `ExA1` -/
  | sknp (x : Reg)
  /-- `Exnn`, the other words of group E -/
  | nopE (x : Reg) (nn : Byte)
  /-- `Fx07` -/
  | ldVxDt (x : Reg)
  /-- `Fx0A` -/
  | ldVxK (x : Reg)
  /-- `Fx15` -/
  | ldDtVx (x : Reg)
  /-- `Fx18` -/
  | ldStVx (x : Reg)
  /-- `Fx1E` -/
  | addI (x : Reg)
  /-- `Fx29` -/
  | ldF (x : Reg)
  /-- `Fx33` -/
  | ldB (x : Reg)
  /-- `Fx55` -/
  | stRegs (x : Reg)
  /-- `Fx65` -/
  | ldRegs (x : Reg)
  /-- `Fxnn`, the other words of group F -/
  | nopF (x : Reg) (nn : Byte)
deriving DecidableEq, Repr

end Sys2Proof
end

