-- ==== Sys2Proof/WellFormed.lean ====
section
/-! DEFINITION. Which terms of `Instr` are instructions: the four ignored classes hold only words that no other row takes. -/

namespace Sys2Proof

/-- The selectors of group 8 that a row of priority 0 takes (R94). -/
def selectors8 : List (BitVec 4) := [0x0, 0x1, 0x2, 0x3, 0x4, 0x5, 0x6, 0x7, 0xE]

/-- The selectors of group E that a row of priority 0 takes (R94). -/
def selectorsE : List Byte := [0x9E, 0xA1]

/-- The selectors of group F that a row of priority 0 takes (R94). -/
def selectorsF : List Byte := [0x07, 0x0A, 0x15, 0x18, 0x1E, 0x29, 0x33, 0x55, 0x65]

/-- A term is well formed when its word selects its own row: an ignored class holds no word of a row of priority 0
(R94, R96). The operands of the other rows have no forbidden value: their types are the fields' widths. -/
def Instr.wf : Instr → Bool
  | .nop0 nnn => nnn != 0x0E0 && nnn != 0x0EE
  | .nop8 _ _ n => !selectors8.contains n
  | .nopE _ nn => !selectorsE.contains nn
  | .nopF _ nn => !selectorsF.contains nn
  | .cls | .ret | .jp _ | .call _ | .seImm _ _ | .sneImm _ _ | .seReg _ _ _ | .ldImm _ _ | .addImm _ _ => true
  | .ldReg _ _ | .orReg _ _ | .andReg _ _ | .xorReg _ _ | .addReg _ _ | .sub _ _ | .shr _ _ | .subn _ _ => true
  | .shl _ _ | .sneReg _ _ _ | .ldI _ | .jpV0 _ | .rnd _ _ | .drw _ _ _ | .skp _ | .sknp _ => true
  | .ldVxDt _ | .ldVxK _ | .ldDtVx _ | .ldStVx _ | .addI _ | .ldF _ | .ldB _ | .stRegs _ | .ldRegs _ => true

end Sys2Proof
end

