-- ==== Sys2Proof/Decode.lean ====
section
/-! DEFINITION. The decoder, total on any bytes, and the encoder, both from the opcode map of R94. -/

namespace Sys2Proof

/-- `v[hi:lo]`: the bits from `hi` down to `lo`, as an unsigned number (R8). -/
def slice (w : Word) (hi lo : Nat) : Nat := w.toNat / 2 ^ lo % 2 ^ (hi - lo + 1)

/-- `group = op[15:12]` (R91). -/
def fieldGroup (w : Word) : Nat := slice w 15 12

/-- `x = op[11:8]` (R91). -/
def fieldX (w : Word) : Reg := Fin.ofNat 16 (slice w 11 8)

/-- `y = op[7:4]` (R91). -/
def fieldY (w : Word) : Reg := Fin.ofNat 16 (slice w 7 4)

/-- `n = op[3:0]` (R91). -/
def fieldN (w : Word) : BitVec 4 := BitVec.ofNat 4 (slice w 3 0)

/-- `nn = op[7:0]` (R91). -/
def fieldNN (w : Word) : Byte := BitVec.ofNat 8 (slice w 7 0)

/-- `nnn = op[11:0]` (R91). -/
def fieldNNN (w : Word) : Addr := BitVec.ofNat 12 (slice w 11 0)

/-- Why bytes are not an instruction. -/
inductive DecodeError where
  /-- Fewer than the two bytes of a word (R90). -/
  | truncated
  /-- "other group": the final arm R97 speaks of; no word reaches it. -/
  | unknownGroup
deriving DecidableEq, Repr

/-- Group 0 selects on the whole word (R93, D10). -/
def decodeGroup0 (w : Word) : Instr :=
  if w = 0x00E0 then .cls else if w = 0x00EE then .ret else .nop0 (fieldNNN w)

/-- Group 8 selects on `n` (R93). -/
def decodeGroup8 (x y : Reg) (n : BitVec 4) : Instr :=
  match n.toNat with
  | 0x0 => .ldReg x y
  | 0x1 => .orReg x y
  | 0x2 => .andReg x y
  | 0x3 => .xorReg x y
  | 0x4 => .addReg x y
  | 0x5 => .sub x y
  | 0x6 => .shr x y
  | 0x7 => .subn x y
  | 0xE => .shl x y
  | _ => .nop8 x y n

/-- Group E selects on `nn` (R93). -/
def decodeGroupE (x : Reg) (nn : Byte) : Instr :=
  match nn.toNat with
  | 0x9E => .skp x
  | 0xA1 => .sknp x
  | _ => .nopE x nn

/-- Group F selects on `nn` (R93). -/
def decodeGroupF (x : Reg) (nn : Byte) : Instr :=
  match nn.toNat with
  | 0x07 => .ldVxDt x
  | 0x0A => .ldVxK x
  | 0x15 => .ldDtVx x
  | 0x18 => .ldStVx x
  | 0x1E => .addI x
  | 0x29 => .ldF x
  | 0x33 => .ldB x
  | 0x55 => .stRegs x
  | 0x65 => .ldRegs x
  | _ => .nopF x nn

/-- The two-level dispatch of R93 on one instruction word. -/
def decodeWord (w : Word) : Except DecodeError Instr :=
  match fieldGroup w with
  | 0x0 => .ok (decodeGroup0 w)
  | 0x1 => .ok (.jp (fieldNNN w))
  | 0x2 => .ok (.call (fieldNNN w))
  | 0x3 => .ok (.seImm (fieldX w) (fieldNN w))
  | 0x4 => .ok (.sneImm (fieldX w) (fieldNN w))
  | 0x5 => .ok (.seReg (fieldX w) (fieldY w) (fieldN w))
  | 0x6 => .ok (.ldImm (fieldX w) (fieldNN w))
  | 0x7 => .ok (.addImm (fieldX w) (fieldNN w))
  | 0x8 => .ok (decodeGroup8 (fieldX w) (fieldY w) (fieldN w))
  | 0x9 => .ok (.sneReg (fieldX w) (fieldY w) (fieldN w))
  | 0xA => .ok (.ldI (fieldNNN w))
  | 0xB => .ok (.jpV0 (fieldNNN w))
  | 0xC => .ok (.rnd (fieldX w) (fieldNN w))
  | 0xD => .ok (.drw (fieldX w) (fieldY w) (fieldN w))
  | 0xE => .ok (decodeGroupE (fieldX w) (fieldNN w))
  | 0xF => .ok (decodeGroupF (fieldX w) (fieldNN w))
  | _ => .error .unknownGroup

/-- Two bytes in memory order, combined big-endian into a word (R64). -/
def wordOfBytes (hi lo : Byte) : Word := BitVec.ofNat 16 (hi.toNat * 256 + lo.toNat)

/-- The first instruction of a list of bytes, and the bytes behind it. -/
def decode : List Byte → Except DecodeError (Instr × List Byte)
  | hi :: lo :: rest => (decodeWord (wordOfBytes hi lo)).map fun i => (i, rest)
  | _ => .error .truncated

/-- A word of format `NNN` (R91). -/
def wordNNN (group : Nat) (nnn : Addr) : Word := BitVec.ofNat 16 (group * 4096 + nnn.toNat)

/-- A word of format `XNN` (R91). -/
def wordXNN (group : Nat) (x : Reg) (nn : Byte) : Word := BitVec.ofNat 16 (group * 4096 + x.val * 256 + nn.toNat)

/-- A word of format `XYN` (R91). -/
def wordXYN (group : Nat) (x y : Reg) (n : BitVec 4) : Word :=
  BitVec.ofNat 16 (group * 4096 + x.val * 256 + y.val * 16 + n.toNat)

/-- The word of an instruction (R94), the ignored fields as the term holds them. -/
def encode : Instr → Word
  | .cls => 0x00E0
  | .ret => 0x00EE
  | .nop0 nnn => wordNNN 0x0 nnn
  | .jp nnn => wordNNN 0x1 nnn
  | .call nnn => wordNNN 0x2 nnn
  | .seImm x nn => wordXNN 0x3 x nn
  | .sneImm x nn => wordXNN 0x4 x nn
  | .seReg x y n => wordXYN 0x5 x y n
  | .ldImm x nn => wordXNN 0x6 x nn
  | .addImm x nn => wordXNN 0x7 x nn
  | .ldReg x y => wordXYN 0x8 x y 0x0
  | .orReg x y => wordXYN 0x8 x y 0x1
  | .andReg x y => wordXYN 0x8 x y 0x2
  | .xorReg x y => wordXYN 0x8 x y 0x3
  | .addReg x y => wordXYN 0x8 x y 0x4
  | .sub x y => wordXYN 0x8 x y 0x5
  | .shr x y => wordXYN 0x8 x y 0x6
  | .subn x y => wordXYN 0x8 x y 0x7
  | .shl x y => wordXYN 0x8 x y 0xE
  | .nop8 x y n => wordXYN 0x8 x y n
  | .sneReg x y n => wordXYN 0x9 x y n
  | .ldI nnn => wordNNN 0xA nnn
  | .jpV0 nnn => wordNNN 0xB nnn
  | .rnd x nn => wordXNN 0xC x nn
  | .drw x y n => wordXYN 0xD x y n
  | .skp x => wordXNN 0xE x 0x9E
  | .sknp x => wordXNN 0xE x 0xA1
  | .nopE x nn => wordXNN 0xE x nn
  | .ldVxDt x => wordXNN 0xF x 0x07
  | .ldVxK x => wordXNN 0xF x 0x0A
  | .ldDtVx x => wordXNN 0xF x 0x15
  | .ldStVx x => wordXNN 0xF x 0x18
  | .addI x => wordXNN 0xF x 0x1E
  | .ldF x => wordXNN 0xF x 0x29
  | .ldB x => wordXNN 0xF x 0x33
  | .stRegs x => wordXNN 0xF x 0x55
  | .ldRegs x => wordXNN 0xF x 0x65
  | .nopF x nn => wordXNN 0xF x nn

/-- The two bytes of an instruction in memory order, the high byte at the lower address (R64). -/
def encodeBytes (i : Instr) : List Byte := [BitVec.ofNat 8 (slice (encode i) 15 8), BitVec.ofNat 8 (slice (encode i) 7 0)]

/-- The `mask` column of R94. -/
def Instr.mask : Instr → Word
  | .cls | .ret => 0xFFFF
  | .ldReg _ _ | .orReg _ _ | .andReg _ _ | .xorReg _ _ | .addReg _ _ | .sub _ _ | .shr _ _ | .subn _ _ | .shl _ _ => 0xF00F
  | .skp _ | .sknp _ | .ldVxDt _ | .ldVxK _ | .ldDtVx _ | .ldStVx _ | .addI _ | .ldF _ | .ldB _ | .stRegs _ | .ldRegs _ => 0xF0FF
  | .nop0 _ | .jp _ | .call _ | .seImm _ _ | .sneImm _ _ | .seReg _ _ _ | .ldImm _ _ | .addImm _ _ | .nop8 _ _ _ => 0xF000
  | .sneReg _ _ _ | .ldI _ | .jpV0 _ | .rnd _ _ | .drw _ _ _ | .nopE _ _ | .nopF _ _ => 0xF000

/-- The `match` column of R94. -/
def Instr.pattern : Instr → Word
  | .cls => 0x00E0
  | .ret => 0x00EE
  | .nop0 _ => 0x0000
  | .jp _ => 0x1000
  | .call _ => 0x2000
  | .seImm _ _ => 0x3000
  | .sneImm _ _ => 0x4000
  | .seReg _ _ _ => 0x5000
  | .ldImm _ _ => 0x6000
  | .addImm _ _ => 0x7000
  | .ldReg _ _ => 0x8000
  | .orReg _ _ => 0x8001
  | .andReg _ _ => 0x8002
  | .xorReg _ _ => 0x8003
  | .addReg _ _ => 0x8004
  | .sub _ _ => 0x8005
  | .shr _ _ => 0x8006
  | .subn _ _ => 0x8007
  | .shl _ _ => 0x800E
  | .nop8 _ _ _ => 0x8000
  | .sneReg _ _ _ => 0x9000
  | .ldI _ => 0xA000
  | .jpV0 _ => 0xB000
  | .rnd _ _ => 0xC000
  | .drw _ _ _ => 0xD000
  | .skp _ => 0xE09E
  | .sknp _ => 0xE0A1
  | .nopE _ _ => 0xE000
  | .ldVxDt _ => 0xF007
  | .ldVxK _ => 0xF00A
  | .ldDtVx _ => 0xF015
  | .ldStVx _ => 0xF018
  | .addI _ => 0xF01E
  | .ldF _ => 0xF029
  | .ldB _ => 0xF033
  | .stRegs _ => 0xF055
  | .ldRegs _ => 0xF065
  | .nopF _ _ => 0xF000

/-- The four ignored classes, the rows of priority 1 (R94, R96). -/
def Instr.ignored : Instr → Bool
  | .nop0 _ | .nop8 _ _ _ | .nopE _ _ | .nopF _ _ => true
  | .cls | .ret | .jp _ | .call _ | .seImm _ _ | .sneImm _ _ | .seReg _ _ _ | .ldImm _ _ | .addImm _ _ => false
  | .ldReg _ _ | .orReg _ _ | .andReg _ _ | .xorReg _ _ | .addReg _ _ | .sub _ _ | .shr _ _ | .subn _ _ => false
  | .shl _ _ | .sneReg _ _ _ | .ldI _ | .jpV0 _ | .rnd _ _ | .drw _ _ _ | .skp _ | .sknp _ => false
  | .ldVxDt _ | .ldVxK _ | .ldDtVx _ | .ldStVx _ | .addI _ | .ldF _ | .ldB _ | .stRegs _ | .ldRegs _ => false

/-- The assembler's form: 0 in a field the instruction ignores, `n` of `5xy_` and `9xy_`, `y` of `8xy6` and `8xyE` (R98, R99). -/
def Instr.canonical : Instr → Instr
  | .seReg x y _ => .seReg x y 0
  | .sneReg x y _ => .sneReg x y 0
  | .shr x _ => .shr x 0
  | .shl x _ => .shl x 0
  | .cls => .cls
  | .ret => .ret
  | .nop0 nnn => .nop0 nnn
  | .jp nnn => .jp nnn
  | .call nnn => .call nnn
  | .seImm x nn => .seImm x nn
  | .sneImm x nn => .sneImm x nn
  | .ldImm x nn => .ldImm x nn
  | .addImm x nn => .addImm x nn
  | .ldReg x y => .ldReg x y
  | .orReg x y => .orReg x y
  | .andReg x y => .andReg x y
  | .xorReg x y => .xorReg x y
  | .addReg x y => .addReg x y
  | .sub x y => .sub x y
  | .subn x y => .subn x y
  | .nop8 x y n => .nop8 x y n
  | .ldI nnn => .ldI nnn
  | .jpV0 nnn => .jpV0 nnn
  | .rnd x nn => .rnd x nn
  | .drw x y n => .drw x y n
  | .skp x => .skp x
  | .sknp x => .sknp x
  | .nopE x nn => .nopE x nn
  | .ldVxDt x => .ldVxDt x
  | .ldVxK x => .ldVxK x
  | .ldDtVx x => .ldDtVx x
  | .ldStVx x => .ldStVx x
  | .addI x => .addI x
  | .ldF x => .ldF x
  | .ldB x => .ldB x
  | .stRegs x => .stRegs x
  | .ldRegs x => .ldRegs x
  | .nopF x nn => .nopF x nn

/-- The instruction the decoder reads from an instruction word given as the opcode table numbers it: `w`'s low `nbits` bits,
laid out as the hardware stores a word, high byte first (R64). -/
def decodeTableWord (nbits w : Nat) : Option Instr :=
  let word : Word := BitVec.ofNat 16 (w % 2 ^ nbits)
  match decode [BitVec.ofNat 8 (slice word 15 8), BitVec.ofNat 8 (slice word 7 0)] with
  | .ok (i, _) => some i
  | .error _ => none

end Sys2Proof
end

