-- ==== Sys2Proof/Machine/Engine.lean ====
section
/-! DEFINITION. The phases of a slot around the instruction, the wake-up step, and the idle machine (`40_engine_cycle.md`). -/

namespace Sys2Proof.Machine

/-! ## Phases T and K -/

/-- Phase T: `if tick_due = 1 then Tick()`, at most once a slot (R122). -/
def State.phaseT (s : State) : State :=
  { s with dt := tickIf s.input.tickDue s.dt, st := tickIf s.input.tickDue s.st }

/-- Phase K on a list of events: in order, a `Quit` ends it and drops the events behind it (R122). -/
def State.takeEvents (s : State) : List HostEvent → State
  | [] => s
  | .keyDown k :: es => (s.setKey k true).takeEvents es
  | .keyUp k :: es => (s.setKey k false).takeEvents es
  | .quit :: _ => s.setRun .stopped

/-- The host events that have arrived by now, oldest first: those still queued, then this step's (R286). -/
def State.arrived (s : State) : List HostEvent := s.pending ++ s.input.events

/-- The queue of host events replaced. -/
def State.setPending (s : State) (es : List HostEvent) : State := { s with pending := es }

/-- Phase K: every event that has arrived is taken (R122, R286). -/
def State.phaseK (s : State) : State := (s.setPending []).takeEvents s.arrived

/-! ## Phase X around the execution -/

/-- The fetch: two bytes, big-endian, or FETCH_OOB (R123, R124). -/
def State.fetch (s : State) : Except FaultReport Word :=
  if s.pc.toNat + 1 > 0xFFF then .error ⟨.fetchOob, s.pc.toNat⟩
  else .ok (wordOfBytes (s.byteAt s.pc.toNat) (s.byteAt (s.pc.toNat + 1)))

/-- The base advance, `pc <- pc + 2` (R125). -/
def State.advance (s : State) : State := s.setPc (s.pc + 2)

/-- `IR` takes the word fetched, unless the slot has faulted (R123, R128; log 6). -/
def State.latch (s : State) (w : Word) : State := if s.runState = .faulted then s else { s with ir := w }

/-- Phase P: `frame_ready` pulses when the instruction was a `Dxyn` that did not fault (R129, R228). -/
def State.phaseP (s : State) (w : Word) : State :=
  { s with frameReady := decide (s.runState ≠ .faulted) && fieldGroup w == 0xD }

/-- The end of a slot whose instruction word was `w`. -/
def State.retire (s : State) (w : Word) : State := (s.latch w).phaseP w

/-! ## WAIT_KEY -/

/-- The wake-up step on one host event (R131, R242). -/
def State.wakeOn (s : State) : HostEvent → State
  | .keyUp k => s.setKey k false
  | .keyDown k => ((s.setKey k true).setReg (fieldX s.ir) (BitVec.ofNat 8 k.val)).setRun .running
  | .quit => s.setRun .stopped

/-- A step in WAIT_KEY: the oldest event is taken, the others stay queued; with no event the wait goes on (R131; log 10). -/
def State.wake (s : State) : State :=
  match s.arrived with
  | [] => s
  | e :: es => (s.setPending es).wakeOn e

/-! ## IDLE, FAULTED, STOPPED -/

/-- A step in IDLE: the load port, then `start`; host events are discarded (R287, R289; log 11). -/
def State.idle (s : State) : State :=
  let s1 := s.input.loads.foldl (fun t l => t.storeByte l.1.toNat l.2) (s.setPending [])
  if s.input.start then s1.setRun .running else s1

/-- A step in FAULTED or STOPPED: nothing happens, and host events are discarded (R132, R287). -/
def State.halted (s : State) : State := s.setPending []

/-! ## The step's frame -/

/-- `frame_ready` is a pulse: low unless the present step raises it (R228). -/
def State.beginStep (s : State) : State := { s with frameReady := false }

/-- The inputs of the step are used up and time has passed (log 1). -/
def State.endStep (s : State) : State := { s with script := s.script.tail, time := s.time + 1 }

/-! ## Placing an instruction where the next step fetches it -/

/-- The input without what would keep the next slot from its instruction. -/
def StepInput.calm (inp : StepInput) : StepInput :=
  { inp with reset := false, events := inp.events.filter (· ≠ .quit) }

/-- The inputs of coming steps, the first of them without what would keep the next slot from its instruction. Where that one is free,
it is fixed with no event at all, since a `Quit` may be among free events (log 14). -/
def State.calmScript (s : State) : List StepInput :=
  match s.script with
  | [] => [{ StepInput.free s.time with reset := false, events := [] }]
  | inp :: rest => inp.calm :: rest

/-- The word `w` in memory at `pc`, the machine RUNNING, with no reset and no `Quit` due: loading a program and `start` in one
(R289, R321; log 14). A `pc` from which nothing can be fetched becomes the program origin. -/
def State.placeWord (s : State) (w : Word) : State :=
  let pc := if s.pc.toNat + 1 > 0xFFF then 0x0200 else s.pc
  let s1 := (s.storeByte pc.toNat (BitVec.ofNat 8 (slice w 15 8))).storeByte (pc.toNat + 1) (BitVec.ofNat 8 (slice w 7 0))
  { s1 with
    pc := pc
    runState := .running
    pending := s.pending.filter (· ≠ .quit)
    script := s.calmScript }

end Sys2Proof.Machine
end

