-- ==== Sys2Proof/Machine/Slot.lean ====
section
/-! DEFINITION. The slot (R133), and what one step of the machine does in each run state. -/

namespace Sys2Proof.Machine

/-- An outcome's next state passed on to `f`. -/
def onNext (o : Outcome) (f : State → State) : Outcome :=
  match o with
  | .next t => .next (f t)
  | .fault r => .fault r
  | .refused r => .refused r

/-- Phases X and P on the state that phase K left: fetch, advance, decode, execute, and the end of the slot (R123 to R129). -/
def State.phaseX (s : State) : Outcome :=
  match s.fetch with
  | .error r => .next (s.raiseAt s.pc r)
  | .ok w =>
    match decodeWord w with
    | .error _ => .next (s.raiseAt s.pc ⟨.unknownGroup, w.toNat⟩)
    | .ok i => onNext (exec i s.advance) fun t => t.retire w

/-- The slot: phases T, K, X and P (R120, R133); a `Quit` taken in phase K ends it (R122). -/
def State.slot (s : State) : Outcome :=
  let s1 := s.phaseT.phaseK
  if s1.runState = .running then s1.phaseX else .next s1

/-- What happens between two moments at which the outside can act: reset before everything (R273), else by `run_state` (R34). -/
def State.turn (s : State) : Outcome :=
  if s.input.reset then .next s.assertReset
  else
    match s.runState with
    | .idle => .next s.idle
    | .running => s.slot
    | .waitKey => .next s.wake
    | .faulted | .stopped => .next s.halted

end Sys2Proof.Machine
end

