-- ==== Sys2Proof/Machine/Step.lean ====
section
/-! DEFINITION. One step of the machine, and the state in which the next step runs a given instruction. -/

namespace Sys2Proof.Machine

/-- One step: a slot in RUNNING, a wake-up in WAIT_KEY, the load port and `start` in IDLE, nothing in FAULTED and STOPPED. -/
def step (s : State) : Host.Outcome State Fault Refusal := onNext s.beginStep.turn State.endStep

/-- `s` with the instruction whose bits are `w`, numbered as the opcode table numbers them, where the next step fetches (log 14). -/
def State.withFetchWord (s : State) (nbits w : Nat) : State := s.placeWord (BitVec.ofNat 16 (w % 2 ^ nbits))

end Sys2Proof.Machine
end

