-- ==== Sys2Proof/Safety.lean ====
section
/-! DEFINITION. The terms that claims use: what a step left unchanged, what a fault left, the end of a run, and the invariants. -/

namespace Sys2Proof.Machine

/-- The parts of the state, one for each field. -/
inductive Part where
  | regs | index | pc | sp | stack | mem | disp | key | dt | st | ir | runState | faultCause | faultPc
  | pending | frameReady | cfg | script | time
deriving DecidableEq, Repr

/-- Part `p` is the same in `t` as in `s`. Memory is compared through the read of one byte, at every address. -/
def Part.same (p : Part) (s t : State) : Prop :=
  match p with
  | .regs => ∀ r, t.reg r = s.reg r
  | .index => t.index = s.index
  | .pc => t.pc = s.pc
  | .sp => t.sp = s.sp
  | .stack => t.stack = s.stack
  | .mem => ∀ a, t.byteAt a = s.byteAt a
  | .disp => t.disp = s.disp
  | .key => t.key = s.key
  | .dt => t.dt = s.dt
  | .st => t.st = s.st
  | .ir => t.ir = s.ir
  | .runState => t.runState = s.runState
  | .faultCause => t.faultCause = s.faultCause
  | .faultPc => t.faultPc = s.faultPc
  | .pending => t.pending = s.pending
  | .frameReady => t.frameReady = s.frameReady
  | .cfg => t.cfg = s.cfg
  | .script => t.script = s.script
  | .time => t.time = s.time

/-- Every part but those listed is the same in `t` as in `s`. -/
def UnchangedBut (written : List Part) (s t : State) : Prop := ∀ p, p ∉ written → p.same s t

/-- `t` is `s` with `b` in `V[x]` and nothing else changed. -/
def OnlyReg (x : Reg) (b : Byte) (s t : State) : Prop :=
  t.reg x = b ∧ (∀ r, r ≠ x → t.reg r = s.reg r) ∧ UnchangedBut [.regs] s t

/-- `t` is `s` faulted with cause `c` for the instruction at address `a`, and nothing else has changed (R272). -/
def FaultedFrom (c : FaultCause) (a : Word) (s t : State) : Prop :=
  t.runState = .faulted ∧ t.faultCause = c ∧ t.faultPc = a ∧ t.pc = a ∧
    UnchangedBut [.pc, .runState, .faultCause, .faultPc] s t

/-- `t` is `s` with the flag `f` in `VF` and `b` in `V[x]`, the result last: where `V[x]` is `VF` it holds the result (R170). -/
def FlagAndReg (f : Bool) (x : Reg) (b : Byte) (s t : State) : Prop :=
  t.reg x = b ∧ (x ≠ VF → t.reg VF = if f then 1 else 0) ∧ (∀ r, r ≠ x → r ≠ VF → t.reg r = s.reg r) ∧
    UnchangedBut [.regs] s t

/-- The register `r` as the write of a flag `f` to `VF` leaves it, the second statement's operand under R170. -/
def State.regBehindFlag (s : State) (f : Bool) (r : Reg) : Byte := if r = VF then (if f then 1 else 0) else s.reg r

/-- The byte at `p` behind a store of `V[0]` to `V[x]` at `I` (R204). -/
def State.byteBehindRegs (s : State) (x : Reg) (p : Nat) : Byte :=
  if s.dataAddr 0 ≤ p ∧ p ≤ s.dataAddr x.val then s.reg (Fin.ofNat 16 (p - s.dataAddr 0)) else s.byteAt p

/-- The byte at `p` behind a store of the decimal digits of `V[x]` at `I` (R203). -/
def State.byteBehindDigits (s : State) (x : Reg) (p : Nat) : Byte :=
  if p = s.dataAddr 0 then hundreds (s.reg x)
  else if p = s.dataAddr 1 then tens (s.reg x)
  else if p = s.dataAddr 2 then units (s.reg x)
  else s.byteAt p

/-- The bytes from `a` on, `n` of them, are the only ones that differ from `s` in `t`. -/
def MemoryBut (a n : Nat) (s t : State) : Prop := ∀ p, ¬ (a ≤ p ∧ p < a + n) → t.byteAt p = s.byteAt p

/-- The sprite of height `n` at `I` has a set bit in row `r`, column `c`: bit `7 - c` of its byte (R221). -/
def State.spriteBit (s : State) (n r c : Nat) : Prop :=
  r < n ∧ c < 8 ∧ (s.byteAt (s.index.toNat + r)).getLsbD (7 - c) = true

/-- Cell `k` is where the sprite bit `(r, c)` lands from the origin `(x0, y0)`, by the edge mode (R223, R224, R225). -/
def LandsOn (mode : DrawEdgeMode) (x0 y0 r c k : Nat) : Prop :=
  match mode with
  | .linear => k = (x0 + c) + (y0 + r) * 64
  | .wrap => k = (x0 + c) % 64 + (y0 + r) % 32 * 64
  | .clip => x0 + c < 64 ∧ y0 + r < 32 ∧ k = (x0 + c) + (y0 + r) * 64

/-- A `Dxyn` in `s` touches cell `k` (R221). -/
def State.touches (s : State) (x y : Reg) (n : BitVec 4) (k : Nat) : Prop :=
  ∃ r c, s.spriteBit n.toNat r c ∧ LandsOn s.cfg.drawEdgeMode ((s.reg x).toNat % 64) ((s.reg y).toNat % 32) r c k

/-- A `Dxyn` in `s` has no byte above 0xFFF and, in linear mode, no set bit above index 2047 (R221). -/
def State.drawable (s : State) (x y : Reg) (n : BitVec 4) : Prop :=
  (n = 0 ∨ s.index.toNat + n.toNat ≤ 0x1000) ∧
    (s.cfg.drawEdgeMode = .linear → ∀ k, s.touches x y n k → k ≤ 2047)

/-- Calls to the addresses of a list, one after the other. -/
def callAll : List Addr → State → Outcome
  | [], s => .next s
  | nnn :: rest, s =>
    match exec (.call nnn) s with
    | .next t => callAll rest t
    | .fault r => .fault r
    | .refused r => .refused r

/-- `n` steps of the machine. -/
def steps : Nat → State → Outcome
  | 0, s => .next s
  | n + 1, s =>
    match step s with
    | .next t => steps n t
    | .fault r => .fault r
    | .refused r => .refused r

/-- `run` is an infinite run of the machine. -/
def IsRun (run : Nat → State) : Prop := ∀ n, step (run n) = .next (run (n + 1))

/-- The next step is a slot (R120, R121): RUNNING, and no reset, which comes before everything (R273). -/
def State.takesSlot (s : State) : Prop := s.runState = .running ∧ s.input.reset = false

/-- Fairness of the ticks in a run (R247 (c)): of infinitely many slots infinitely many have `tick_due = 1`. A premise that a claim may take,
which no step imposes (log 17). -/
def TicksFair (run : Nat → State) : Prop :=
  (∀ n, ∃ m, n ≤ m ∧ (run m).takesSlot) → ∀ n, ∃ m, n ≤ m ∧ (run m).takesSlot ∧ (run m).input.tickDue = true

/-- What the host writes through the load port for a program image (R289): its bytes at 0x200 on. -/
def imageLoads (image : List Byte) : List (Addr × Byte) :=
  image.zipIdx.map fun b => (BitVec.ofNat 12 (0x200 + b.2), b.1)

/-- The launch premise of R322: the state of R38 with the image at 0x200 and RUNNING. The length is the loader's duty (R63). -/
def State.launchedWith (s : State) (image : List Byte) : Prop :=
  1 ≤ image.length ∧ image.length ≤ 3584 ∧ s.runState = .running ∧
    (∀ a : Nat, s.byteAt a =
      if 0x200 ≤ a ∧ a < 0x200 + image.length then image[a - 0x200]?.getD 0 else unlisted s.cfg.font a) ∧
    UnchangedBut [.mem, .runState, .cfg, .script, .time] State.reset s

/-- A state of a run that has not gone wrong: a faulted run is never a finished run (R270). -/
def State.noFault (s : State) : Prop := s.runState ≠ .faulted

/-- The word at `pc`, as a fetch that succeeds reads it (R123). -/
def State.wordAtPc (s : State) : Word := wordOfBytes (s.byteAt s.pc.toNat) (s.byteAt (s.pc.toNat + 1))

/-- "The program has finished" (R331): RUNNING at a jump to itself. -/
def State.atEnd (s : State) : Prop :=
  s.runState = .running ∧ s.pc.toNat + 1 ≤ 0xFFF ∧ ∃ nnn : Addr, zext16 nnn = s.pc ∧ s.wordAtPc = encode (.jp nnn)

/-- No `Quit` reaches the phase K of the next slot. -/
def State.quitFree (s : State) : Prop := HostEvent.quit ∉ s.arrived

/-- The state in which the instruction of the next slot executes, but for the base advance: behind phases T and K (R122). -/
def State.behindTK (s : State) : State := s.beginStep.phaseT.phaseK

/-- `I` is a 12-bit address (R24). -/
def State.indexInRange (s : State) : Prop := s.index.toNat ≤ 0xFFF

/-- `pc` and every return address on the stack are at most 0x10FE (R26). -/
def State.pcInRange (s : State) : Prop := s.pc.toNat ≤ 0x10FE ∧ ∀ k : Fin 16, s.stack[k].toNat ≤ 0x10FE

/-- Memory is in its canonical form. -/
def State.memCanonical (s : State) : Prop := Memory.wf s.cfg.font s.mem

/-- The fault record is filled exactly in FAULTED, and then `fault_pc` is where `pc` stands (R35, R272). -/
def State.faultRecordRight (s : State) : Prop :=
  (s.runState = .faulted → s.faultCause ≠ .none ∧ s.faultPc = s.pc) ∧
  (s.runState ≠ .faulted → s.faultCause = .none ∧ s.faultPc = 0)

/-- In WAIT_KEY, `IR` holds an `Fx0A` word, so that the wake-up finds its `x` (R33, R131). -/
def State.waitHoldsKeyWord (s : State) : Prop := s.runState = .waitKey → ∃ x : Reg, s.ir = encode (.ldVxK x)

end Sys2Proof.Machine

namespace Sys2Proof

open Machine

/-- The parts of the state an instruction writes when it does not fault, on top of the base advance (R39, column "written by"). -/
def Instr.writes : Instr → List Part
  | .cls => [.disp]
  | .ret => [.sp, .pc]
  | .call _ => [.stack, .sp, .pc]
  | .jp _ | .jpV0 _ | .seImm _ _ | .sneImm _ _ | .seReg _ _ _ | .sneReg _ _ _ | .skp _ | .sknp _ => [.pc]
  | .ldImm _ _ | .addImm _ _ | .ldReg _ _ | .orReg _ _ | .andReg _ _ | .xorReg _ _ | .rnd _ _ | .ldVxDt _ | .ldRegs _ => [.regs]
  | .addReg _ _ | .sub _ _ | .shr _ _ | .subn _ _ | .shl _ _ => [.regs]
  | .ldI _ | .ldF _ => [.index]
  | .addI _ => [.index, .regs]
  | .ldB _ | .stRegs _ => [.mem]
  | .drw _ _ _ => [.disp, .regs]
  | .ldVxK _ => [.runState]
  | .ldDtVx _ => [.dt]
  | .ldStVx _ => [.st]
  | .nop0 _ | .nop8 _ _ _ | .nopE _ _ | .nopF _ _ => []

/-- The general registers an instruction writes, `VF` as a flag among them (R22, R39). -/
def Instr.writesReg : Instr → Reg → Prop
  | .ldImm x _, r | .addImm x _, r | .ldReg x _, r | .orReg x _, r | .andReg x _, r | .xorReg x _, r => r = x
  | .rnd x _, r | .ldVxDt x, r => r = x
  | .addReg x _, r | .sub x _, r | .shr x _, r | .subn x _, r | .shl x _, r => r = x ∨ r = VF
  | .addI _, r | .drw _ _ _, r => r = VF
  | .ldRegs x, r => r ≤ x
  | .cls, _ | .ret, _ | .call _, _ | .jp _, _ | .jpV0 _, _ | .seImm _ _, _ | .sneImm _ _, _ | .seReg _ _ _, _ => False
  | .sneReg _ _ _, _ | .skp _, _ | .sknp _, _ | .ldI _, _ | .ldF _, _ | .ldB _, _ | .stRegs _, _ | .ldVxK _, _ => False
  | .ldDtVx _, _ | .ldStVx _, _ | .nop0 _, _ | .nop8 _ _ _, _ | .nopE _ _, _ | .nopF _ _, _ => False

/-- The addresses an instruction stores to, by the address function of its meaning (R203, R204). -/
def Instr.stores : Instr → State → Nat → Prop
  | .ldB _, s, a => ∃ k < 3, a = s.dataAddr k
  | .stRegs x, s, a => ∃ k ≤ x.val, a = s.dataAddr k
  | .cls, _, _ | .ret, _, _ | .jp _, _, _ | .call _, _, _ | .jpV0 _, _, _ | .seImm _ _, _, _ | .sneImm _ _, _, _ => False
  | .seReg _ _ _, _, _ | .sneReg _ _ _, _, _ | .ldImm _ _, _, _ | .addImm _ _, _, _ | .ldReg _ _, _, _ => False
  | .orReg _ _, _, _ | .andReg _ _, _, _ | .xorReg _ _, _, _ | .addReg _ _, _, _ | .sub _ _, _, _ | .shr _ _, _, _ => False
  | .subn _ _, _, _ | .shl _ _, _, _ | .rnd _ _, _, _ | .ldI _, _, _ | .addI _, _, _ | .ldF _, _, _ | .ldRegs _, _, _ => False
  | .drw _ _ _, _, _ | .skp _, _, _ | .sknp _, _, _ | .ldVxDt _, _, _ | .ldVxK _, _, _ | .ldDtVx _, _, _ => False
  | .ldStVx _, _, _ | .nop0 _, _, _ | .nop8 _ _ _, _, _ | .nopE _ _, _, _ | .nopF _ _, _, _ => False

/-- The faults an instruction can raise (R271, column "raised by"). -/
def Instr.faults : Instr → List FaultCause
  | .ret => [.stackUnderflow]
  | .call _ => [.stackOverflow]
  | .ldB _ | .stRegs _ | .ldRegs _ => [.memOob]
  | .drw _ _ _ => [.memOob, .displayOob]
  | .skp _ | .sknp _ => [.keyIndex]
  | .cls | .jp _ | .jpV0 _ | .seImm _ _ | .sneImm _ _ | .seReg _ _ _ | .sneReg _ _ _ | .ldImm _ _ | .addImm _ _ => []
  | .ldReg _ _ | .orReg _ _ | .andReg _ _ | .xorReg _ _ | .addReg _ _ | .sub _ _ | .shr _ _ | .subn _ _ | .shl _ _ => []
  | .rnd _ _ | .ldI _ | .ldF _ | .addI _ | .ldVxDt _ | .ldVxK _ | .ldDtVx _ | .ldStVx _ => []
  | .nop0 _ | .nop8 _ _ _ | .nopE _ _ | .nopF _ _ => []

end Sys2Proof
end

