-- ==== Sys2Proof/Certificates/Slice0/Obligations.lean ====
section
/-! DEFINITION. The statements for the provers. Each docstring names the rules of the spec its statement formalises. -/

open Sys2Proof Sys2Proof.Machine

/-! ## Encoding -/

/-- The bytes of a well-formed instruction decode to that instruction and leave the bytes behind them (R64, R90, R94). -/
def Obligations.DecodeInvertsEncode : Prop :=
  ∀ (i : Instr) (rest : List Byte), i.wf = true → decode (encodeBytes i ++ rest) = .ok (i, rest)

/-- What a word decodes to is well formed and encodes to the word: no bit of it is lost (R91, R94). -/
def Obligations.EncodeInvertsDecode : Prop :=
  ∀ (w : Word) (i : Instr), decodeWord w = .ok i → i.wf = true ∧ encode i = w

/-- Every word decodes to exactly one row of R94's map, by the map's own mask and match columns and its order of rows, and that row
executes; the words of the ignored classes, which no other row takes, do nothing behind the advance (R96). -/
def Obligations.EveryWordSelectsOneRow : Prop :=
  ∀ w : Word, ∃ i, decodeWord w = .ok i ∧ w &&& i.mask = i.pattern ∧
    (∀ j : Instr, j.ignored = i.ignored → w &&& j.mask = j.pattern → j.mask = i.mask ∧ j.pattern = i.pattern) ∧
    (i.ignored = true → ∀ j : Instr, j.ignored = false → w &&& j.mask ≠ j.pattern) ∧
    ∀ s, ∃ t, exec i s = .next t ∧ (i.ignored = true → UnchangedBut [] s t)

/-- Words written out from the opcode map decode to their instructions, one of each family (R94). The last, `01E0`, is one of the 30 contested words: that
it is an ignored word is a choice, the spec's decision D10, which the model follows (log 8). -/
def Obligations.SampleWordsDecode : Prop :=
  decodeWord 0x00EE = .ok .ret ∧ decodeWord 0x2ABC = .ok (.call 0xABC) ∧ decodeWord 0x332A = .ok (.seImm 3 0x2A) ∧
  decodeWord 0x812E = .ok (.shl 1 2) ∧ decodeWord 0xF365 = .ok (.ldRegs 3) ∧ decodeWord 0xD125 = .ok (.drw 1 2 5) ∧
  decodeWord 0xEA9E = .ok (.skp 10) ∧ decodeWord 0x01E0 = .ok (.nop0 0x1E0)

/-- Fields an instruction does not use change nothing: `n` of groups 5 and 9, `y` of the two shifts, every free bit of an ignored class (R95). -/
def Obligations.IgnoredFieldsChangeNothing : Prop :=
  (∀ (i : Instr) (s : State), exec i.canonical s = exec i s) ∧
  (∀ (i j : Instr) (s : State), i.ignored = true → j.ignored = true → exec i s = exec j s)

/-! ## Load, arithmetic, logic, shift, random -/

/-- LD_IMM writes its immediate to `V[x]` and nothing else (R171). -/
def Obligations.LoadImmediateWritesOneRegister : Prop :=
  ∀ (x : Reg) (nn : Byte) (s : State), ∃ t, exec (.ldImm x nn) s = .next t ∧ OnlyReg x nn s t

/-- ADD_IMM adds modulo 256 and writes no flag (R172). -/
def Obligations.AddImmediateWrapsWithoutFlag : Prop :=
  ∀ (x : Reg) (nn : Byte) (s : State), ∃ t b, exec (.addImm x nn) s = .next t ∧
    b.toNat = ((s.reg x).toNat + nn.toNat) % 256 ∧ OnlyReg x b s t

/-- LD_REG, OR, AND and XOR write `V[x]`, bit by bit, and no flag (R173 to R176). -/
def Obligations.MoveAndLogicWriteOneRegister : Prop :=
  ∀ (x y : Reg) (s : State),
    (∃ t, exec (.ldReg x y) s = .next t ∧ OnlyReg x (s.reg y) s t) ∧
    (∃ t b, exec (.orReg x y) s = .next t ∧ OnlyReg x b s t ∧
      ∀ k < 8, b.getLsbD k = ((s.reg x).getLsbD k || (s.reg y).getLsbD k)) ∧
    (∃ t b, exec (.andReg x y) s = .next t ∧ OnlyReg x b s t ∧
      ∀ k < 8, b.getLsbD k = ((s.reg x).getLsbD k && (s.reg y).getLsbD k)) ∧
    (∃ t b, exec (.xorReg x y) s = .next t ∧ OnlyReg x b s t ∧
      ∀ k < 8, b.getLsbD k = ((s.reg x).getLsbD k ^^ (s.reg y).getLsbD k))

/-- ADD_REG writes the sum modulo 256 to `V[x]` and the carry to `VF`; both operands are the old ones, and in `VF` as `V[x]` the sum
stays (R177; the order of the writes, R170, is the spec's decision D9). -/
def Obligations.AddRegistersSetsCarry : Prop :=
  ∀ (x y : Reg) (s : State), ∃ t b, exec (.addReg x y) s = .next t ∧
    b.toNat = ((s.reg x).toNat + (s.reg y).toNat) % 256 ∧
    FlagAndReg (decide ((s.reg x).toNat + (s.reg y).toNat > 255)) x b s t

/-- SUB and SUBN write the flag "no borrow" first and then the difference modulo 256 of the registers as that write left them, SUBN with the
operands exchanged (R178, R180; the order of the writes, R170, is the spec's decision D9). -/
def Obligations.SubtractionsSetNoBorrow : Prop :=
  ∀ (x y : Reg) (s : State),
    (∃ t b, exec (.sub x y) s = .next t ∧
      let f := decide ((s.reg x).toNat ≥ (s.reg y).toNat)
      b.toNat = (256 + (s.regBehindFlag f x).toNat - (s.regBehindFlag f y).toNat) % 256 ∧ FlagAndReg f x b s t) ∧
    (∃ t b, exec (.subn x y) s = .next t ∧
      let f := decide ((s.reg y).toNat ≥ (s.reg x).toNat)
      b.toNat = (256 + (s.regBehindFlag f y).toNat - (s.regBehindFlag f x).toNat) % 256 ∧ FlagAndReg f x b s t)

/-- SHR and SHL write the bit shifted out to `VF` and then shift `V[x]`, as that write left it, by one position; `V[y]` has no part in
it (R179, R181; the order of the writes, R170, is the spec's decision D9). -/
def Obligations.ShiftsReportBitOut : Prop :=
  ∀ (x y : Reg) (s : State),
    (∃ t b, exec (.shr x y) s = .next t ∧
      let f := decide ((s.reg x).toNat % 2 = 1)
      b.toNat = (s.regBehindFlag f x).toNat / 2 ∧ FlagAndReg f x b s t) ∧
    (∃ t b, exec (.shl x y) s = .next t ∧
      let f := decide ((s.reg x).toNat ≥ 128)
      b.toNat = (s.regBehindFlag f x).toNat * 2 % 256 ∧ FlagAndReg f x b s t)

/-- RND writes the step's random byte and the mask to `V[x]`: a fixed draw where the script gives one, and whatever is drawn no bit outside
`nn` (R182; the script is the model's, log 1). -/
def Obligations.RandomIsMaskedDraw : Prop :=
  ∀ (x : Reg) (nn : Byte) (s : State), ∃ t b, exec (.rnd x nn) s = .next t ∧ OnlyReg x b s t ∧
    (∀ k < 8, nn.getLsbD k = false → b.getLsbD k = false) ∧
    (∀ k < 8, nn.getLsbD k = true → b.getLsbD k = s.randomByte.getLsbD k) ∧
    (∀ inp rest, s.script = inp :: rest → s.randomByte = inp.rnd)

/-! ## Control flow -/

/-- JP sets `pc` to the zero-extended operand, JP_V0 to its 16-bit sum with `V[0]`, not masked to 12 bits, and nothing else (R151, R153; that the
sum is not masked is the spec's decision D26). -/
def Obligations.JumpsSetPc : Prop :=
  ∀ (nnn : Addr) (s : State),
    (∃ t, exec (.jp nnn) s = .next t ∧ t.pc.toNat = nnn.toNat ∧ UnchangedBut [.pc] s t) ∧
    (∃ t, exec (.jpV0 nnn) s = .next t ∧ t.pc.toNat = nnn.toNat + (s.reg 0).toNat ∧ UnchangedBut [.pc] s t)

/-- CALL pushes the advanced `pc` and jumps while the stack has room, and at `sp = 16` raises STACK_OVERFLOW with nothing written (R152;
the entry's width is the spec's decision D18). -/
def Obligations.CallPushesOrOverflows : Prop :=
  ∀ (nnn : Addr) (s : State),
    (s.sp.val < 16 → ∃ t, exec (.call nnn) s = .next t ∧ t.sp.val = s.sp.val + 1 ∧
      (∀ k : Fin 16, t.stack[k] = if k.val = s.sp.val then s.pc else s.stack[k]) ∧ t.pc.toNat = nnn.toNat ∧
      UnchangedBut [.stack, .sp, .pc] s t) ∧
    (s.sp.val = 16 → ∃ t, exec (.call nnn) s = .next t ∧ FaultedFrom .stackOverflow (s.pc - 2) s t)

/-- RET lowers `sp` by one and erases nothing; `pc` is the popped address in restore_pc and is left in as_observed; at `sp = 0` it
raises STACK_UNDERFLOW with nothing written (R150; the spec's decisions D4 and D7). -/
def Obligations.ReturnPopsOrUnderflows : Prop :=
  ∀ s : State,
    (∀ k : Fin 16, s.sp.val = k.val + 1 → s.cfg.retMode = .asObserved → ∃ t, exec .ret s = .next t ∧ t.sp.val = k.val ∧
      UnchangedBut [.sp] s t) ∧
    (∀ k : Fin 16, s.sp.val = k.val + 1 → s.cfg.retMode = .restorePc → ∃ t, exec .ret s = .next t ∧ t.sp.val = k.val ∧
      t.pc = s.stack[k] ∧ UnchangedBut [.sp, .pc] s t) ∧
    (s.sp.val = 0 → ∃ t, exec .ret s = .next t ∧ FaultedFrom .stackUnderflow (s.pc - 2) s t)

/-- A call and a return from anywhere leave `sp` as it was; the return resumes behind the call in restore_pc, and falls through in as_observed
(from R150 and R152). -/
def Obligations.CallThenReturn : Prop :=
  ∀ (nnn : Addr) (a : Word) (s : State), s.sp.val < 16 → ∃ t u, exec (.call nnn) s = .next t ∧
    exec .ret (t.setPc a) = .next u ∧ u.sp = s.sp ∧ (s.cfg.retMode = .restorePc → u.pc = s.pc) ∧
    (s.cfg.retMode = .asObserved → u.pc = a)

/-- From `sp = 0` sixteen calls, to any targets, fill the stack one frame a call, and the seventeenth faults (R152, D0 §8). -/
def Obligations.SeventeenthCallOverflows : Prop :=
  ∀ (targets : List Addr) (s : State), s.sp.val = 0 → targets.length ≤ 16 →
    ∃ t, callAll targets s = .next t ∧
      t.sp.val = targets.length ∧
      (targets.length = 16 → ∀ nnn, ∃ u, exec (.call nnn) t = .next u ∧ FaultedFrom .stackOverflow (t.pc - 2) t u)

/-- The four register skips add 2 to the advanced `pc` exactly when their condition holds (R154 to R157). -/
def Obligations.RegisterSkips : Prop :=
  ∀ (x y : Reg) (nn : Byte) (n : BitVec 4) (s : State),
    (∃ t, exec (.seImm x nn) s = .next t ∧ UnchangedBut [.pc] s t ∧ t.pc = if s.reg x = nn then s.pc + 2 else s.pc) ∧
    (∃ t, exec (.sneImm x nn) s = .next t ∧ UnchangedBut [.pc] s t ∧ t.pc = if s.reg x = nn then s.pc else s.pc + 2) ∧
    (∃ t, exec (.seReg x y n) s = .next t ∧ UnchangedBut [.pc] s t ∧ t.pc = if s.reg x = s.reg y then s.pc + 2 else s.pc) ∧
    (∃ t, exec (.sneReg x y n) s = .next t ∧ UnchangedBut [.pc] s t ∧ t.pc = if s.reg x = s.reg y then s.pc else s.pc + 2)

/-! ## Index register and memory -/

/-- LD_I loads the zero-extended operand into `I`, LD_F the address of the glyph of `V[x]`, taken whole, and nothing else (R200, R202). -/
def Obligations.LoadIndexAndGlyphAddress : Prop :=
  ∀ (nnn : Addr) (x : Reg) (s : State),
    (∃ t, exec (.ldI nnn) s = .next t ∧ t.index.toNat = nnn.toNat ∧ UnchangedBut [.index] s t) ∧
    (∃ t, exec (.ldF x) s = .next t ∧ t.index.toNat = 0x050 + 5 * (s.reg x).toNat ∧ UnchangedBut [.index] s t)

/-- ADD_I writes the overflow of the untruncated sum to `VF` and then the sum, with `V[x]` as that write left it, modulo 4096 to `I` (R201;
the order of the writes, R170, is the spec's decision D9). -/
def Obligations.AddIndexWrapsAndFlags : Prop :=
  ∀ (x : Reg) (s : State), ∃ t, exec (.addI x) s = .next t ∧
    let f := decide (s.index.toNat + (s.reg x).toNat > 0xFFF)
    t.reg VF = (if f then 1 else 0) ∧ t.index.toNat = (s.index.toNat + (s.regBehindFlag f x).toNat) % 4096 ∧
    (∀ r, r ≠ VF → t.reg r = s.reg r) ∧ UnchangedBut [.index, .regs] s t

/-- LD_B stores the three decimal digits of `V[x]`, hundreds first, at `I`, and no other byte; past 0xFFF it raises MEM_OOB with nothing
written (R203; the fault is the spec's decision D6). -/
def Obligations.StoreDecimalDigits : Prop :=
  ∀ (x : Reg) (s : State),
    (s.index.toNat + 2 ≤ 0xFFF → ∃ t, exec (.ldB x) s = .next t ∧
      (t.byteAt s.index.toNat).toNat = (s.reg x).toNat / 100 ∧
      (t.byteAt (s.index.toNat + 1)).toNat = (s.reg x).toNat / 10 % 10 ∧
      (t.byteAt (s.index.toNat + 2)).toNat = (s.reg x).toNat % 10 ∧
      MemoryBut s.index.toNat 3 s t ∧ UnchangedBut [.mem] s t) ∧
    (s.index.toNat + 2 > 0xFFF → ∃ t, exec (.ldB x) s = .next t ∧ FaultedFrom .memOob (s.pc - 2) s t)

/-- ST_REGS stores `V[0]` to `V[x]` at `I` on, and no other byte, `I` unchanged; past 0xFFF it raises MEM_OOB with nothing written (R204;
the fault is the spec's decision D6). -/
def Obligations.StoreRegisterBlock : Prop :=
  ∀ (x : Reg) (s : State),
    (s.index.toNat + x.val ≤ 0xFFF → ∃ t, exec (.stRegs x) s = .next t ∧
      (∀ k : Reg, k ≤ x → t.byteAt (s.index.toNat + k.val) = s.reg k) ∧
      MemoryBut s.index.toNat (x.val + 1) s t ∧ UnchangedBut [.mem] s t) ∧
    (s.index.toNat + x.val > 0xFFF → ∃ t, exec (.stRegs x) s = .next t ∧ FaultedFrom .memOob (s.pc - 2) s t)

/-- LD_REGS loads `V[0]` to `V[x]` from `I` on, and no other register, `I` unchanged; past 0xFFF it raises MEM_OOB with nothing written (R205;
the fault is the spec's decision D6). -/
def Obligations.LoadRegisterBlock : Prop :=
  ∀ (x : Reg) (s : State),
    (s.index.toNat + x.val ≤ 0xFFF → ∃ t, exec (.ldRegs x) s = .next t ∧
      (∀ k : Reg, k ≤ x → t.reg k = s.byteAt (s.index.toNat + k.val)) ∧ (∀ k : Reg, x < k → t.reg k = s.reg k) ∧
      UnchangedBut [.regs] s t) ∧
    (s.index.toNat + x.val > 0xFFF → ∃ t, exec (.ldRegs x) s = .next t ∧ FaultedFrom .memOob (s.pc - 2) s t)

/-- Registers stored at `I` and then loaded from there, into any register file, are reproduced (from R204 and R205; D0 §8). -/
def Obligations.StoreThenLoadReproduces : Prop :=
  ∀ (x : Reg) (s : State) (v : Vector Byte 16), s.index.toNat + x.val ≤ 0xFFF → ∃ t u, exec (.stRegs x) s = .next t ∧
    exec (.ldRegs x) { t with v := v } = .next u ∧ ∀ k : Reg, u.reg k = if k ≤ x then s.reg k else v[k]

/-- A store is seen by the very next fetch, wherever it reads: after ST_REGS and after LD_B, the fetch at every address that can be fetched
reads the stored bytes where it meets the block, inside or across an edge, and the old bytes elsewhere, big-endian (R64, R72). -/
def Obligations.StoreSeenByNextFetch : Prop :=
  ∀ (x : Reg) (s : State),
    (s.index.toNat + x.val ≤ 0xFFF → ∃ t, exec (.stRegs x) s = .next t ∧ ∀ a : Word, a.toNat ≤ 0xFFE →
      (t.setPc a).fetch = .ok (wordOfBytes (s.byteBehindRegs x a.toNat) (s.byteBehindRegs x (a.toNat + 1)))) ∧
    (s.index.toNat + 2 ≤ 0xFFF → ∃ t, exec (.ldB x) s = .next t ∧ ∀ a : Word, a.toNat ≤ 0xFFE →
      (t.setPc a).fetch = .ok (wordOfBytes (s.byteBehindDigits x a.toNat) (s.byteBehindDigits x (a.toNat + 1))))

/-! ## Display -/

/-- CLS clears all 2048 cells and nothing else, `VF` among the rest (R220). -/
def Obligations.ClearDisplay : Prop :=
  ∀ s : State, ∃ t, exec .cls s = .next t ∧ (∀ k < 2048, t.disp.cell k = false) ∧ UnchangedBut [.disp] s t

/-- DRW in every edge mode: each touched cell is inverted and no other, `VF` is 1 exactly when a touched cell was 1, and nothing else
changes; a byte above 0xFFF raises MEM_OOB, else in linear mode a set bit above 2047 raises DISPLAY_OOB, with nothing drawn (R221,
R223 to R225; the spec's decisions D5, D6 and D11). -/
def Obligations.DrawInvertsTouchedCells : Prop :=
  ∀ (x y : Reg) (n : BitVec 4) (s : State),
    (s.drawable x y n → ∃ t, exec (.drw x y n) s = .next t ∧
      (∀ k < 2048, s.touches x y n k → t.disp.cell k = !s.disp.cell k) ∧
      (∀ k < 2048, ¬ s.touches x y n k → t.disp.cell k = s.disp.cell k) ∧
      ((∃ k, s.touches x y n k ∧ s.disp.cell k = true) → t.reg VF = 1) ∧
      ((¬ ∃ k, s.touches x y n k ∧ s.disp.cell k = true) → t.reg VF = 0) ∧
      (∀ r, r ≠ VF → t.reg r = s.reg r) ∧ UnchangedBut [.disp, .regs] s t) ∧
    (n ≠ 0 → s.index.toNat + n.toNat > 0x1000 → ∃ t, exec (.drw x y n) s = .next t ∧ FaultedFrom .memOob (s.pc - 2) s t) ∧
    ((n = 0 ∨ s.index.toNat + n.toNat ≤ 0x1000) → s.cfg.drawEdgeMode = .linear → (∃ k, s.touches x y n k ∧ k > 2047) →
      ∃ t, exec (.drw x y n) s = .next t ∧ FaultedFrom .displayOob (s.pc - 2) s t)

/-- The same sprite drawn twice at the same place leaves the display as it was, and the second draw reports a collision exactly when some
cell was touched that the first draw had lit (from R221 and R227; D0 §8). -/
def Obligations.DrawTwiceRestores : Prop :=
  ∀ (x y : Reg) (n : BitVec 4) (s : State), x ≠ VF → y ≠ VF → s.drawable x y n →
    ∃ t u, exec (.drw x y n) s = .next t ∧ exec (.drw x y n) t = .next u ∧ u.disp = s.disp ∧
      (u.reg VF = 1 ↔ ∃ k, s.touches x y n k ∧ s.disp.cell k = false)

/-- In every edge mode two set bits never land on one cell, and the three modes agree on a sprite whose set bits all lie inside the grid from its
origin (R226). -/
def Obligations.EdgeModesAgreeInsideGrid : Prop :=
  (∀ (s : State) (mode : DrawEdgeMode) (n : BitVec 4) (x0 y0 r c r' c' k : Nat),
    s.spriteBit n.toNat r c → s.spriteBit n.toNat r' c' → LandsOn mode x0 y0 r c k → LandsOn mode x0 y0 r' c' k →
    r = r' ∧ c = c') ∧
  (∀ (x y : Reg) (n : BitVec 4) (s : State) (mode : DrawEdgeMode), (n = 0 ∨ s.index.toNat + n.toNat ≤ 0x1000) →
    (∀ r c, s.spriteBit n.toNat r c → (s.reg x).toNat % 64 + c ≤ 63 ∧ (s.reg y).toNat % 32 + r ≤ 31) →
    ∃ t u, exec (.drw x y n) s = .next t ∧ exec (.drw x y n) { s with cfg := { s.cfg with drawEdgeMode := mode } } = .next u ∧
      u = { t with cfg := { s.cfg with drawEdgeMode := mode } })

/-! ## Keypad and timers -/

/-- SKP and SKNP skip by the level of the key that `V[x]` names, and raise KEY_INDEX when it is above 15 (R240, R241; the fault is the
spec's decision D8). -/
def Obligations.KeySkips : Prop :=
  ∀ (x : Reg) (s : State),
    (∀ k : KeyNum, (s.reg x).toNat = k.val →
      (∃ t, exec (.skp x) s = .next t ∧ UnchangedBut [.pc] s t ∧ t.pc = if s.keyPressed k then s.pc + 2 else s.pc) ∧
      (∃ t, exec (.sknp x) s = .next t ∧ UnchangedBut [.pc] s t ∧ t.pc = if s.keyPressed k then s.pc else s.pc + 2)) ∧
    ((s.reg x).toNat > 15 →
      (∃ t, exec (.skp x) s = .next t ∧ FaultedFrom .keyIndex (s.pc - 2) s t) ∧
      (∃ t, exec (.sknp x) s = .next t ∧ FaultedFrom .keyIndex (s.pc - 2) s t))

/-- LD_VX_K, in its own slot, begins the wait and writes nothing else, whatever keys are held (R242; the spec's decision D15). -/
def Obligations.KeyWaitBegins : Prop :=
  ∀ (x : Reg) (s : State), ∃ t, exec (.ldVxK x) s = .next t ∧ t.runState = .waitKey ∧ UnchangedBut [.runState] s t

/-- LD_VX_DT, LD_DT_VX and LD_ST_VX move a byte between a register and a timer, and `sound_active` follows `ST` at once (R243 to R245). -/
def Obligations.TimerMoves : Prop :=
  ∀ (x : Reg) (s : State),
    (∃ t, exec (.ldVxDt x) s = .next t ∧ OnlyReg x s.dt s t) ∧
    (∃ t, exec (.ldDtVx x) s = .next t ∧ t.dt = s.reg x ∧ UnchangedBut [.dt] s t) ∧
    (∃ t, exec (.ldStVx x) s = .next t ∧ t.st = s.reg x ∧ UnchangedBut [.st] s t ∧
      (t.soundActive = true ↔ s.reg x ≠ 0))

/-- `n` ticks bring each timer from `v` to `max(0, v - n)`, `sound_active` falls with the sound timer, and nothing else is touched (R246). -/
def Obligations.TicksCountDownToZero : Prop :=
  ∀ (n : Nat) (s : State), (State.tick^[n] s).dt.toNat = s.dt.toNat - n ∧ (State.tick^[n] s).st.toNat = s.st.toNat - n ∧
    ((State.tick^[n] s).soundActive = true ↔ n < s.st.toNat) ∧ UnchangedBut [.dt, .st] s (State.tick^[n] s)

/-! ## Ignored encodings -/

/-- The four ignored classes run and change nothing (R260 to R263). -/
def Obligations.IgnoredEncodingsDoNothing : Prop :=
  ∀ (nnn : Addr) (x y : Reg) (n : BitVec 4) (nn : Byte) (s : State),
    (∃ t, exec (.nop0 nnn) s = .next t ∧ UnchangedBut [] s t) ∧ (∃ t, exec (.nop8 x y n) s = .next t ∧ UnchangedBut [] s t) ∧
    (∃ t, exec (.nopE x nn) s = .next t ∧ UnchangedBut [] s t) ∧ (∃ t, exec (.nopF x nn) s = .next t ∧ UnchangedBut [] s t)

/-! ## All instructions -/

/-- Every instruction in every state either completes, writing only the parts and registers R39's table gives it and only the bytes of memory it
stores to, or raises one of the faults R271's table gives it, with nothing written but the fault's record (R39, R203, R204, R271, R272). -/
def Obligations.InstructionsKeepToTheirTables : Prop :=
  ∀ (i : Instr) (s : State), ∃ t, exec i s = .next t ∧
    ((UnchangedBut i.writes s t ∧ (∀ r, ¬ i.writesReg r → t.reg r = s.reg r) ∧ ∀ a, ¬ i.stores s a → t.byteAt a = s.byteAt a) ∨
      ∃ c ∈ i.faults, FaultedFrom c (s.pc - 2) s t)

/-- `VF` changes only under the seven flag-writing instructions, or as the destination that an instruction names (R22). -/
def Obligations.FlagWritersAreSeven : Prop :=
  ∀ (i : Instr) (s t : State), exec i s = .next t → t.reg VF ≠ s.reg VF →
    (∃ x y, i = .addReg x y ∨ i = .sub x y ∨ i = .shr x y ∨ i = .subn x y ∨ i = .shl x y) ∨ (∃ x, i = .addI x) ∨
    (∃ x y n, i = .drw x y n) ∨
    (∃ nn, i = .ldImm VF nn ∨ i = .addImm VF nn ∨ i = .rnd VF nn) ∨
    (∃ y, i = .ldReg VF y ∨ i = .orReg VF y ∨ i = .andReg VF y ∨ i = .xorReg VF y) ∨ i = .ldVxDt VF ∨ i = .ldRegs VF

/-! ## The slot and the step -/

/-- A step in RUNNING, with no reset and no `Quit`, whose `pc` can be fetched, is `exec` of the decoded word on the state behind phases T and K with
`pc` advanced by 2; then `IR` takes the word unless the instruction faulted, `frame_ready` pulses after a completed `Dxyn`, and
the step's inputs are used up (R123, R125, R127, R133; `IR` under a fault is log 6, the inputs of a step are log 1). -/
def Obligations.StepRunsDecodedInstruction : Prop :=
  ∀ (s : State) (i : Instr), s.input.reset = false → s.runState = .running → s.quitFree → s.pc.toNat ≤ 0xFFE →
    decodeWord s.wordAtPc = .ok i →
    ∃ t, exec i (s.behindTK.setPc (s.pc + 2)) = .next t ∧
      step s = .next { t with
        ir := if t.runState = .faulted then t.ir else s.wordAtPc
        frameReady := decide (t.runState ≠ .faulted) && fieldGroup s.wordAtPc == 0xD
        script := s.script.tail
        time := s.time + 1 }

/-- Phases T and K before the instruction: one tick if it is due and no more, then the events that have arrived in order up to a `Quit`, so
that a key is as its last event before that left it; the events behind are dropped, and nothing else changes (R122, R246, R247, R286; the
inputs of a step are the model's, log 1). -/
def Obligations.TickThenKeysBeforeInstruction : Prop :=
  ∀ s : State, s.behindTK.dt.toNat = s.dt.toNat - (if s.input.tickDue then 1 else 0) ∧
    s.behindTK.st.toNat = s.st.toNat - (if s.input.tickDue then 1 else 0) ∧
    (∀ k : KeyNum, s.behindTK.keyPressed k =
      (((s.arrived.takeWhile (· ≠ .quit)).reverse.findSome? fun e =>
        if e = .keyDown k then some true else if e = .keyUp k then some false else none).getD (s.keyPressed k))) ∧
    s.behindTK.pending = [] ∧ (s.behindTK.runState = if HostEvent.quit ∈ s.arrived then .stopped else s.runState) ∧
    UnchangedBut [.dt, .st, .key, .pending, .runState, .frameReady] s s.behindTK

/-- Every step of every state has a next state: the slot is total, and the machine has no other stop than its own states (R121, R270). -/
def Obligations.StepAlwaysAnswersNext : Prop := ∀ s : State, ∃ t, step s = .next t

/-- A fetch from 0xFFF or above raises FETCH_OOB with `fault_pc = pc` and nothing else changed behind phases T and K (R124; the spec's
decision D3). -/
def Obligations.FetchBoundFaults : Prop :=
  ∀ s : State, s.input.reset = false → s.runState = .running → s.quitFree → s.pc.toNat ≥ 0xFFF →
    ∃ t, step s = .next t ∧ FaultedFrom .fetchOob s.pc s.behindTK.endStep t

/-- Faults are precise: a slot that ends FAULTED has left everything as phase K did, but for the fault's record, whose address is where the
instruction stood (R128, R272; the spec's decision D1). -/
def Obligations.FaultsArePrecise : Prop :=
  ∀ s t : State, s.input.reset = false → s.runState = .running → step s = .next t → t.runState = .faulted →
    t.faultCause ≠ .none ∧ FaultedFrom t.faultCause s.pc s.behindTK.endStep t

/-- A `Quit` that has arrived stops the machine: in RUNNING before the instruction and its fault, in WAIT_KEY when it is taken; no
fault is recorded. In IDLE, FAULTED and STOPPED it has no effect, nor has any other event, whether it is queued or arrives with the
step (R287, R288; the spec's decision D21). -/
def Obligations.QuitStopsTheMachine : Prop :=
  ∀ s : State, s.input.reset = false →
    (s.runState = .running → HostEvent.quit ∈ s.arrived → ∃ t, step s = .next t ∧ t.runState = .stopped ∧
      UnchangedBut [.dt, .st, .key, .pending, .runState, .frameReady, .script, .time] s t) ∧
    (s.runState = .waitKey → s.arrived.head? = some .quit → ∃ t, step s = .next t ∧ t.runState = .stopped ∧
      UnchangedBut [.pending, .runState, .frameReady, .script, .time] s t) ∧
    (∀ es, s.runState = .idle ∨ s.runState = .faulted ∨ s.runState = .stopped →
      ∃ t, step s = .next t ∧ step { s with pending := es } = .next t) ∧
    (∀ es evs inp rest, s.script = inp :: rest → s.runState = .idle ∨ s.runState = .faulted ∨ s.runState = .stopped →
      ∃ t, step s = .next t ∧ step { s with pending := es, script := { inp with events := evs } :: rest } = .next t)

/-- The wake-up step: a key-up keeps the wait, a key-down ends it with the key's number in the `V[x]` that `IR` names, the events behind stay
queued, and no timer counts; with no event the wait goes on (R131; the spec's decision D15;
log 10). -/
def Obligations.WakeUpStep : Prop :=
  ∀ s : State, s.input.reset = false → s.runState = .waitKey →
    (s.arrived = [] → ∃ t, step s = .next t ∧ UnchangedBut [.frameReady, .script, .time] s t) ∧
    (∀ k es, s.arrived = .keyUp k :: es → ∃ t, step s = .next t ∧ t.pending = es ∧
      (∀ q, t.keyPressed q = if q = k then false else s.keyPressed q) ∧
      UnchangedBut [.key, .pending, .frameReady, .script, .time] s t) ∧
    (∀ k es, s.arrived = .keyDown k :: es → ∃ t, step s = .next t ∧ t.pending = es ∧ t.runState = .running ∧
      (∀ q, t.keyPressed q = if q = k then true else s.keyPressed q) ∧
      (∀ r, (t.reg r).toNat = if r.val = s.ir.toNat / 256 % 16 then k.val else (s.reg r).toNat) ∧
      UnchangedBut [.regs, .key, .pending, .runState, .frameReady, .script, .time] s t)

/-- The whole key wait: a slot that fetches `Fx0A` ends in WAIT_KEY behind the instruction, and the first key-down taken then puts its number into
`V[x]` and lets the machine run on from there, the timers as they were (R242; the spec's decision D15). -/
def Obligations.KeyWaitDeliversKey : Prop :=
  ∀ (s : State) (x : Reg), s.input.reset = false → s.runState = .running → s.quitFree → s.pc.toNat ≤ 0xFFE →
    s.wordAtPc = encode (.ldVxK x) →
    ∃ t, step s = .next t ∧ t.runState = .waitKey ∧ t.pc = s.pc + 2 ∧
      ∀ k es, t.input.reset = false → t.arrived = .keyDown k :: es →
        ∃ u, step t = .next u ∧ u.runState = .running ∧ (u.reg x).toNat = k.val ∧ (∀ r, r ≠ x → u.reg r = t.reg r) ∧
          u.keyPressed k = true ∧ u.pc = s.pc + 2 ∧ u.dt = t.dt ∧ u.st = t.st ∧ u.pending = es

/-- In FAULTED and STOPPED nothing happens but that host events are discarded; in IDLE no slot runs, no tick and no key event is taken, and only
the load port and `start` act (R132, R287; the spec's decisions D14 and D21). -/
def Obligations.NoSlotOutsideRunning : Prop :=
  ∀ s : State, s.input.reset = false →
    (s.runState = .faulted ∨ s.runState = .stopped → ∃ t, step s = .next t ∧ t.pending = [] ∧
      UnchangedBut [.pending, .frameReady, .script, .time] s t) ∧
    (s.runState = .idle → ∃ t, step s = .next t ∧ t.pending = [] ∧
      UnchangedBut [.mem, .runState, .pending, .frameReady, .script, .time] s t)

/-- In IDLE the load port writes its bytes, the last one to an address standing, and `start` begins the run (R289, the spec's decision D14; that loads come
before `start` in one step is the model's choice, log 11). -/
def Obligations.LoadPortAndStart : Prop :=
  ∀ s : State, s.input.reset = false → s.runState = .idle → ∃ t, step s = .next t ∧
    (∀ a : Nat, t.byteAt a =
      ((s.input.loads.reverse.find? fun l => l.1.toNat == a).map Prod.snd).getD (s.byteAt a)) ∧
    t.runState = if s.input.start then .running else .idle

/-- A program comes to run: one step from reset whose loads are an image's bytes at 0x200 on, with `start`, ends in R322's launch state, for every value
of the parameters (from R289, R321 and R322; that loads and `start` fall in one step is the model's choice, log 11 and log 14). -/
def Obligations.LaunchFromReset : Prop :=
  ∀ (image : List Byte) (cfg : Config) (inp : StepInput) (rest : List StepInput), 1 ≤ image.length → image.length ≤ 3584 →
    inp.reset = false → inp.start = true → inp.loads = imageLoads image →
    ∃ t, step { State.reset with cfg := cfg, script := inp :: rest } = .next t ∧ t.launchedWith image ∧ t.cfg = cfg

/-- Reset, from any state, leaves every piece of the hardware's state at the value of R38's table and discards the pending events (R38, R320;
the spec's decisions D14 and D22). -/
def Obligations.ResetFromAnyState : Prop :=
  ∀ s : State, s.input.reset = true → ∃ t, step s = .next t ∧ (∀ r, t.reg r = 0) ∧ t.index = 0 ∧ t.pc = 0x200 ∧ t.sp = 0 ∧
    (∀ k : Fin 16, t.stack[k] = 0) ∧
    (∀ k : Fin 80, t.byteAt (0x050 + k.val) = s.cfg.font[k]) ∧
    (∀ a, a < 0x050 ∨ 0x0A0 ≤ a → t.byteAt a = 0) ∧
    (∀ k < 2048, t.disp.cell k = false) ∧ (∀ k, t.keyPressed k = false) ∧ t.dt = 0 ∧ t.st = 0 ∧ t.soundActive = false ∧ t.ir = 0 ∧
    t.runState = .idle ∧ t.faultCause = .none ∧ t.faultPc = 0 ∧ t.pending = []

/-- `frame_ready` pulses exactly in a step that completed a `Dxyn` (R228; the spec's decision D24; log 13). -/
def Obligations.FrameReadyOncePerDraw : Prop :=
  ∀ s t : State, step s = .next t →
    (t.frameReady = true ↔ s.input.reset = false ∧ s.runState = .running ∧ s.quitFree ∧ s.pc.toNat ≤ 0xFFE ∧
      (∃ x y n, decodeWord s.wordAtPc = .ok (.drw x y n)) ∧ t.runState ≠ .faulted)

/-- The transitions of `run_state` (R34): each one, and no other (the spec's decisions D1, D14 and D21). -/
def Obligations.RunStateTransitions : Prop :=
  ∀ s t : State, step s = .next t →
    (s.input.reset = true → t.runState = .idle) ∧
    (s.input.reset = false →
      (s.runState = .idle → t.runState = if s.input.start then .running else .idle) ∧
      (s.runState = .running → HostEvent.quit ∈ s.arrived → t.runState = .stopped) ∧
      (s.runState = .running → s.quitFree → t.runState = .running ∨ t.runState = .faulted ∨
        (t.runState = .waitKey ∧ ∃ x, decodeWord s.wordAtPc = .ok (.ldVxK x))) ∧
      (s.runState = .waitKey → t.runState = match s.arrived with
        | .keyDown _ :: _ => .running
        | .quit :: _ => .stopped
        | _ => .waitKey) ∧
      (s.runState = .faulted → t.runState = .faulted) ∧ (s.runState = .stopped → t.runState = .stopped))

/-- A byte of memory changes, but for reset, only through the load port in IDLE or under `Fx33` and `Fx55` in RUNNING, and then inside
the bytes they store to (R29, R71). -/
def Obligations.MemoryWriters : Prop :=
  ∀ (s t : State) (a : Nat), step s = .next t → s.input.reset = false → t.byteAt a ≠ s.byteAt a →
    (s.runState = .idle ∧ ∃ l ∈ s.input.loads, l.1.toNat = a) ∨
    (s.runState = .running ∧ s.quitFree ∧ s.index.toNat ≤ a ∧ a ≤ 0xFFF ∧
      ∃ x : Reg, (decodeWord s.wordAtPc = .ok (.ldB x) ∧ a ≤ s.index.toNat + 2) ∨
        (decodeWord s.wordAtPc = .ok (.stRegs x) ∧ a ≤ s.index.toNat + x.val))

/-- The display changes, but for reset, only under `00E0` and `Dxyn` in RUNNING (R30). -/
def Obligations.DisplayWriters : Prop :=
  ∀ s t : State, step s = .next t → s.input.reset = false → t.disp ≠ s.disp →
    s.runState = .running ∧ (decodeWord s.wordAtPc = .ok .cls ∨ ∃ x y n, decodeWord s.wordAtPc = .ok (.drw x y n))

/-- A finished program stays finished: at a jump to itself a slot leaves everything but the timers, the keys and `IR`, which takes the
jump (from R331; the spec's decision D25). -/
def Obligations.SelfJumpIsTheEnd : Prop :=
  ∀ s : State, s.atEnd → s.input.reset = false → s.quitFree → ∃ t, step s = .next t ∧ t.atEnd ∧ t.ir = s.wordAtPc ∧
    UnchangedBut [.dt, .st, .key, .ir, .pending, .frameReady, .script, .time] s t

/-- Over the slots of a finished program whose inputs are fixed, with no reset and no `Quit`, each timer has counted down by the number
of ticks that were due, floored at 0, and the program is still finished (from R246, R247, R331 and R332; D25). -/
def Obligations.FinishedProgramCountsDown : Prop :=
  ∀ s : State, s.atEnd → HostEvent.quit ∉ s.pending → (∀ inp ∈ s.script, inp.reset = false ∧ HostEvent.quit ∉ inp.events) →
    ∃ t, steps s.script.length s = .next t ∧ t.atEnd ∧ t.script = [] ∧
      t.dt.toNat = s.dt.toNat - s.script.countP (·.tickDue) ∧ t.st.toNat = s.st.toNat - s.script.countP (·.tickDue)

/-! ## Invariants that every step keeps -/

/-- `I` never holds a value above 0xFFF: every step keeps it (R24). -/
def Obligations.IndexStaysTwelveBits : Prop :=
  ∀ s t : State, s.indexInRange → step s = .next t → t.indexInRange

/-- `pc` never exceeds 0x10FE, nor does a return address: every step keeps it (R26; the spec's decision D26). -/
def Obligations.PcStaysBelowBound : Prop :=
  ∀ s t : State, s.pcInRange → step s = .next t → t.pcInRange

/-- Memory keeps its canonical form under every step (the form is the model's choice, log 26). -/
def Obligations.MemoryStaysCanonical : Prop :=
  ∀ s t : State, s.memCanonical → step s = .next t → t.memCanonical

/-- The fault record is filled exactly in FAULTED, and then stays: every step keeps it (R35; the spec's decisions D1
and D2). -/
def Obligations.FaultRecordStaysRight : Prop :=
  ∀ s t : State, s.faultRecordRight → step s = .next t → t.faultRecordRight ∧
    (s.input.reset = false → s.runState = .faulted → t.faultCause = s.faultCause ∧ t.faultPc = s.faultPc)

/-- In WAIT_KEY, `IR` holds the `Fx0A` word through the wait: every step keeps it (R33; the spec's decision D15). -/
def Obligations.WaitHoldsItsWord : Prop :=
  ∀ s t : State, s.waitHoldsKeyWord → step s = .next t → t.waitHoldsKeyWord

/-- The invariants hold after reset (R24, R26, R33, R35, R38, R131). The canonical form of memory among them is the model's choice, log 26; the fault
record is the spec's decision D1, the wait D15, the width of `pc` D26. -/
def Obligations.ResetMeetsInvariants : Prop :=
  State.reset.indexInRange ∧ State.reset.pcInRange ∧ State.reset.memCanonical ∧ State.reset.faultRecordRight ∧
    State.reset.waitHoldsKeyWord
end

