-- ==== Sys2Proof/Laws/State.lean ====
section
/-! SUPPORT. What each named update of the state does to each field, so that no proof unfolds a record update. -/

namespace Sys2Proof.Machine

/-! ## `setReg` -/

@[simp] theorem State.setReg_v (s : State) (r : Reg) (b : Byte) : (s.setReg r b).v = s.v.set r b := rfl
@[simp] theorem State.setReg_index (s : State) (r : Reg) (b : Byte) : (s.setReg r b).index = s.index := rfl
@[simp] theorem State.setReg_pc (s : State) (r : Reg) (b : Byte) : (s.setReg r b).pc = s.pc := rfl
@[simp] theorem State.setReg_sp (s : State) (r : Reg) (b : Byte) : (s.setReg r b).sp = s.sp := rfl
@[simp] theorem State.setReg_stack (s : State) (r : Reg) (b : Byte) : (s.setReg r b).stack = s.stack := rfl
@[simp] theorem State.setReg_mem (s : State) (r : Reg) (b : Byte) : (s.setReg r b).mem = s.mem := rfl
@[simp] theorem State.setReg_disp (s : State) (r : Reg) (b : Byte) : (s.setReg r b).disp = s.disp := rfl
@[simp] theorem State.setReg_key (s : State) (r : Reg) (b : Byte) : (s.setReg r b).key = s.key := rfl
@[simp] theorem State.setReg_dt (s : State) (r : Reg) (b : Byte) : (s.setReg r b).dt = s.dt := rfl
@[simp] theorem State.setReg_st (s : State) (r : Reg) (b : Byte) : (s.setReg r b).st = s.st := rfl
@[simp] theorem State.setReg_ir (s : State) (r : Reg) (b : Byte) : (s.setReg r b).ir = s.ir := rfl
@[simp] theorem State.setReg_runState (s : State) (r : Reg) (b : Byte) : (s.setReg r b).runState = s.runState := rfl
@[simp] theorem State.setReg_faultCause (s : State) (r : Reg) (b : Byte) : (s.setReg r b).faultCause = s.faultCause := rfl
@[simp] theorem State.setReg_faultPc (s : State) (r : Reg) (b : Byte) : (s.setReg r b).faultPc = s.faultPc := rfl
@[simp] theorem State.setReg_pending (s : State) (r : Reg) (b : Byte) : (s.setReg r b).pending = s.pending := rfl
@[simp] theorem State.setReg_frameReady (s : State) (r : Reg) (b : Byte) : (s.setReg r b).frameReady = s.frameReady := rfl
@[simp] theorem State.setReg_cfg (s : State) (r : Reg) (b : Byte) : (s.setReg r b).cfg = s.cfg := rfl
@[simp] theorem State.setReg_script (s : State) (r : Reg) (b : Byte) : (s.setReg r b).script = s.script := rfl
@[simp] theorem State.setReg_time (s : State) (r : Reg) (b : Byte) : (s.setReg r b).time = s.time := rfl
@[simp] theorem State.setReg_byteAt (s : State) (r : Reg) (b : Byte) (p : Nat) : (s.setReg r b).byteAt p = s.byteAt p := rfl
@[simp] theorem State.setReg_keyPressed (s : State) (r : Reg) (b : Byte) (q : KeyNum) : (s.setReg r b).keyPressed q = s.keyPressed q := rfl
@[simp] theorem State.setReg_input (s : State) (r : Reg) (b : Byte) : (s.setReg r b).input = s.input := rfl
@[simp] theorem State.setReg_dataAddr (s : State) (r : Reg) (b : Byte) (p : Nat) : (s.setReg r b).dataAddr p = s.dataAddr p := rfl

/-! ## `setIndex` -/

@[simp] theorem State.setIndex_v (s : State) (a : Word) : (s.setIndex a).v = s.v := rfl
@[simp] theorem State.setIndex_index (s : State) (a : Word) : (s.setIndex a).index = a := rfl
@[simp] theorem State.setIndex_pc (s : State) (a : Word) : (s.setIndex a).pc = s.pc := rfl
@[simp] theorem State.setIndex_sp (s : State) (a : Word) : (s.setIndex a).sp = s.sp := rfl
@[simp] theorem State.setIndex_stack (s : State) (a : Word) : (s.setIndex a).stack = s.stack := rfl
@[simp] theorem State.setIndex_mem (s : State) (a : Word) : (s.setIndex a).mem = s.mem := rfl
@[simp] theorem State.setIndex_disp (s : State) (a : Word) : (s.setIndex a).disp = s.disp := rfl
@[simp] theorem State.setIndex_key (s : State) (a : Word) : (s.setIndex a).key = s.key := rfl
@[simp] theorem State.setIndex_dt (s : State) (a : Word) : (s.setIndex a).dt = s.dt := rfl
@[simp] theorem State.setIndex_st (s : State) (a : Word) : (s.setIndex a).st = s.st := rfl
@[simp] theorem State.setIndex_ir (s : State) (a : Word) : (s.setIndex a).ir = s.ir := rfl
@[simp] theorem State.setIndex_runState (s : State) (a : Word) : (s.setIndex a).runState = s.runState := rfl
@[simp] theorem State.setIndex_faultCause (s : State) (a : Word) : (s.setIndex a).faultCause = s.faultCause := rfl
@[simp] theorem State.setIndex_faultPc (s : State) (a : Word) : (s.setIndex a).faultPc = s.faultPc := rfl
@[simp] theorem State.setIndex_pending (s : State) (a : Word) : (s.setIndex a).pending = s.pending := rfl
@[simp] theorem State.setIndex_frameReady (s : State) (a : Word) : (s.setIndex a).frameReady = s.frameReady := rfl
@[simp] theorem State.setIndex_cfg (s : State) (a : Word) : (s.setIndex a).cfg = s.cfg := rfl
@[simp] theorem State.setIndex_script (s : State) (a : Word) : (s.setIndex a).script = s.script := rfl
@[simp] theorem State.setIndex_time (s : State) (a : Word) : (s.setIndex a).time = s.time := rfl
@[simp] theorem State.setIndex_reg (s : State) (a : Word) (q : Reg) : (s.setIndex a).reg q = s.reg q := rfl
@[simp] theorem State.setIndex_byteAt (s : State) (a : Word) (p : Nat) : (s.setIndex a).byteAt p = s.byteAt p := rfl
@[simp] theorem State.setIndex_keyPressed (s : State) (a : Word) (q : KeyNum) : (s.setIndex a).keyPressed q = s.keyPressed q := rfl
@[simp] theorem State.setIndex_input (s : State) (a : Word) : (s.setIndex a).input = s.input := rfl

/-! ## `setPc` -/

@[simp] theorem State.setPc_v (s : State) (a : Word) : (s.setPc a).v = s.v := rfl
@[simp] theorem State.setPc_index (s : State) (a : Word) : (s.setPc a).index = s.index := rfl
@[simp] theorem State.setPc_pc (s : State) (a : Word) : (s.setPc a).pc = a := rfl
@[simp] theorem State.setPc_sp (s : State) (a : Word) : (s.setPc a).sp = s.sp := rfl
@[simp] theorem State.setPc_stack (s : State) (a : Word) : (s.setPc a).stack = s.stack := rfl
@[simp] theorem State.setPc_mem (s : State) (a : Word) : (s.setPc a).mem = s.mem := rfl
@[simp] theorem State.setPc_disp (s : State) (a : Word) : (s.setPc a).disp = s.disp := rfl
@[simp] theorem State.setPc_key (s : State) (a : Word) : (s.setPc a).key = s.key := rfl
@[simp] theorem State.setPc_dt (s : State) (a : Word) : (s.setPc a).dt = s.dt := rfl
@[simp] theorem State.setPc_st (s : State) (a : Word) : (s.setPc a).st = s.st := rfl
@[simp] theorem State.setPc_ir (s : State) (a : Word) : (s.setPc a).ir = s.ir := rfl
@[simp] theorem State.setPc_runState (s : State) (a : Word) : (s.setPc a).runState = s.runState := rfl
@[simp] theorem State.setPc_faultCause (s : State) (a : Word) : (s.setPc a).faultCause = s.faultCause := rfl
@[simp] theorem State.setPc_faultPc (s : State) (a : Word) : (s.setPc a).faultPc = s.faultPc := rfl
@[simp] theorem State.setPc_pending (s : State) (a : Word) : (s.setPc a).pending = s.pending := rfl
@[simp] theorem State.setPc_frameReady (s : State) (a : Word) : (s.setPc a).frameReady = s.frameReady := rfl
@[simp] theorem State.setPc_cfg (s : State) (a : Word) : (s.setPc a).cfg = s.cfg := rfl
@[simp] theorem State.setPc_script (s : State) (a : Word) : (s.setPc a).script = s.script := rfl
@[simp] theorem State.setPc_time (s : State) (a : Word) : (s.setPc a).time = s.time := rfl
@[simp] theorem State.setPc_reg (s : State) (a : Word) (q : Reg) : (s.setPc a).reg q = s.reg q := rfl
@[simp] theorem State.setPc_byteAt (s : State) (a : Word) (p : Nat) : (s.setPc a).byteAt p = s.byteAt p := rfl
@[simp] theorem State.setPc_keyPressed (s : State) (a : Word) (q : KeyNum) : (s.setPc a).keyPressed q = s.keyPressed q := rfl
@[simp] theorem State.setPc_input (s : State) (a : Word) : (s.setPc a).input = s.input := rfl
@[simp] theorem State.setPc_dataAddr (s : State) (a : Word) (p : Nat) : (s.setPc a).dataAddr p = s.dataAddr p := rfl

/-! ## `setRun` -/

@[simp] theorem State.setRun_v (s : State) (r : RunState) : (s.setRun r).v = s.v := rfl
@[simp] theorem State.setRun_index (s : State) (r : RunState) : (s.setRun r).index = s.index := rfl
@[simp] theorem State.setRun_pc (s : State) (r : RunState) : (s.setRun r).pc = s.pc := rfl
@[simp] theorem State.setRun_sp (s : State) (r : RunState) : (s.setRun r).sp = s.sp := rfl
@[simp] theorem State.setRun_stack (s : State) (r : RunState) : (s.setRun r).stack = s.stack := rfl
@[simp] theorem State.setRun_mem (s : State) (r : RunState) : (s.setRun r).mem = s.mem := rfl
@[simp] theorem State.setRun_disp (s : State) (r : RunState) : (s.setRun r).disp = s.disp := rfl
@[simp] theorem State.setRun_key (s : State) (r : RunState) : (s.setRun r).key = s.key := rfl
@[simp] theorem State.setRun_dt (s : State) (r : RunState) : (s.setRun r).dt = s.dt := rfl
@[simp] theorem State.setRun_st (s : State) (r : RunState) : (s.setRun r).st = s.st := rfl
@[simp] theorem State.setRun_ir (s : State) (r : RunState) : (s.setRun r).ir = s.ir := rfl
@[simp] theorem State.setRun_runState (s : State) (r : RunState) : (s.setRun r).runState = r := rfl
@[simp] theorem State.setRun_faultCause (s : State) (r : RunState) : (s.setRun r).faultCause = s.faultCause := rfl
@[simp] theorem State.setRun_faultPc (s : State) (r : RunState) : (s.setRun r).faultPc = s.faultPc := rfl
@[simp] theorem State.setRun_pending (s : State) (r : RunState) : (s.setRun r).pending = s.pending := rfl
@[simp] theorem State.setRun_frameReady (s : State) (r : RunState) : (s.setRun r).frameReady = s.frameReady := rfl
@[simp] theorem State.setRun_cfg (s : State) (r : RunState) : (s.setRun r).cfg = s.cfg := rfl
@[simp] theorem State.setRun_script (s : State) (r : RunState) : (s.setRun r).script = s.script := rfl
@[simp] theorem State.setRun_time (s : State) (r : RunState) : (s.setRun r).time = s.time := rfl
@[simp] theorem State.setRun_reg (s : State) (r : RunState) (q : Reg) : (s.setRun r).reg q = s.reg q := rfl
@[simp] theorem State.setRun_byteAt (s : State) (r : RunState) (p : Nat) : (s.setRun r).byteAt p = s.byteAt p := rfl
@[simp] theorem State.setRun_keyPressed (s : State) (r : RunState) (q : KeyNum) : (s.setRun r).keyPressed q = s.keyPressed q := rfl
@[simp] theorem State.setRun_input (s : State) (r : RunState) : (s.setRun r).input = s.input := rfl
@[simp] theorem State.setRun_dataAddr (s : State) (r : RunState) (p : Nat) : (s.setRun r).dataAddr p = s.dataAddr p := rfl

/-! ## `setDt` -/

@[simp] theorem State.setDt_v (s : State) (b : Byte) : (s.setDt b).v = s.v := rfl
@[simp] theorem State.setDt_index (s : State) (b : Byte) : (s.setDt b).index = s.index := rfl
@[simp] theorem State.setDt_pc (s : State) (b : Byte) : (s.setDt b).pc = s.pc := rfl
@[simp] theorem State.setDt_sp (s : State) (b : Byte) : (s.setDt b).sp = s.sp := rfl
@[simp] theorem State.setDt_stack (s : State) (b : Byte) : (s.setDt b).stack = s.stack := rfl
@[simp] theorem State.setDt_mem (s : State) (b : Byte) : (s.setDt b).mem = s.mem := rfl
@[simp] theorem State.setDt_disp (s : State) (b : Byte) : (s.setDt b).disp = s.disp := rfl
@[simp] theorem State.setDt_key (s : State) (b : Byte) : (s.setDt b).key = s.key := rfl
@[simp] theorem State.setDt_dt (s : State) (b : Byte) : (s.setDt b).dt = b := rfl
@[simp] theorem State.setDt_st (s : State) (b : Byte) : (s.setDt b).st = s.st := rfl
@[simp] theorem State.setDt_ir (s : State) (b : Byte) : (s.setDt b).ir = s.ir := rfl
@[simp] theorem State.setDt_runState (s : State) (b : Byte) : (s.setDt b).runState = s.runState := rfl
@[simp] theorem State.setDt_faultCause (s : State) (b : Byte) : (s.setDt b).faultCause = s.faultCause := rfl
@[simp] theorem State.setDt_faultPc (s : State) (b : Byte) : (s.setDt b).faultPc = s.faultPc := rfl
@[simp] theorem State.setDt_pending (s : State) (b : Byte) : (s.setDt b).pending = s.pending := rfl
@[simp] theorem State.setDt_frameReady (s : State) (b : Byte) : (s.setDt b).frameReady = s.frameReady := rfl
@[simp] theorem State.setDt_cfg (s : State) (b : Byte) : (s.setDt b).cfg = s.cfg := rfl
@[simp] theorem State.setDt_script (s : State) (b : Byte) : (s.setDt b).script = s.script := rfl
@[simp] theorem State.setDt_time (s : State) (b : Byte) : (s.setDt b).time = s.time := rfl
@[simp] theorem State.setDt_reg (s : State) (b : Byte) (q : Reg) : (s.setDt b).reg q = s.reg q := rfl
@[simp] theorem State.setDt_byteAt (s : State) (b : Byte) (p : Nat) : (s.setDt b).byteAt p = s.byteAt p := rfl
@[simp] theorem State.setDt_keyPressed (s : State) (b : Byte) (q : KeyNum) : (s.setDt b).keyPressed q = s.keyPressed q := rfl
@[simp] theorem State.setDt_input (s : State) (b : Byte) : (s.setDt b).input = s.input := rfl
@[simp] theorem State.setDt_dataAddr (s : State) (b : Byte) (p : Nat) : (s.setDt b).dataAddr p = s.dataAddr p := rfl

/-! ## `setSt` -/

@[simp] theorem State.setSt_v (s : State) (b : Byte) : (s.setSt b).v = s.v := rfl
@[simp] theorem State.setSt_index (s : State) (b : Byte) : (s.setSt b).index = s.index := rfl
@[simp] theorem State.setSt_pc (s : State) (b : Byte) : (s.setSt b).pc = s.pc := rfl
@[simp] theorem State.setSt_sp (s : State) (b : Byte) : (s.setSt b).sp = s.sp := rfl
@[simp] theorem State.setSt_stack (s : State) (b : Byte) : (s.setSt b).stack = s.stack := rfl
@[simp] theorem State.setSt_mem (s : State) (b : Byte) : (s.setSt b).mem = s.mem := rfl
@[simp] theorem State.setSt_disp (s : State) (b : Byte) : (s.setSt b).disp = s.disp := rfl
@[simp] theorem State.setSt_key (s : State) (b : Byte) : (s.setSt b).key = s.key := rfl
@[simp] theorem State.setSt_dt (s : State) (b : Byte) : (s.setSt b).dt = s.dt := rfl
@[simp] theorem State.setSt_st (s : State) (b : Byte) : (s.setSt b).st = b := rfl
@[simp] theorem State.setSt_ir (s : State) (b : Byte) : (s.setSt b).ir = s.ir := rfl
@[simp] theorem State.setSt_runState (s : State) (b : Byte) : (s.setSt b).runState = s.runState := rfl
@[simp] theorem State.setSt_faultCause (s : State) (b : Byte) : (s.setSt b).faultCause = s.faultCause := rfl
@[simp] theorem State.setSt_faultPc (s : State) (b : Byte) : (s.setSt b).faultPc = s.faultPc := rfl
@[simp] theorem State.setSt_pending (s : State) (b : Byte) : (s.setSt b).pending = s.pending := rfl
@[simp] theorem State.setSt_frameReady (s : State) (b : Byte) : (s.setSt b).frameReady = s.frameReady := rfl
@[simp] theorem State.setSt_cfg (s : State) (b : Byte) : (s.setSt b).cfg = s.cfg := rfl
@[simp] theorem State.setSt_script (s : State) (b : Byte) : (s.setSt b).script = s.script := rfl
@[simp] theorem State.setSt_time (s : State) (b : Byte) : (s.setSt b).time = s.time := rfl
@[simp] theorem State.setSt_reg (s : State) (b : Byte) (q : Reg) : (s.setSt b).reg q = s.reg q := rfl
@[simp] theorem State.setSt_byteAt (s : State) (b : Byte) (p : Nat) : (s.setSt b).byteAt p = s.byteAt p := rfl
@[simp] theorem State.setSt_keyPressed (s : State) (b : Byte) (q : KeyNum) : (s.setSt b).keyPressed q = s.keyPressed q := rfl
@[simp] theorem State.setSt_input (s : State) (b : Byte) : (s.setSt b).input = s.input := rfl
@[simp] theorem State.setSt_dataAddr (s : State) (b : Byte) (p : Nat) : (s.setSt b).dataAddr p = s.dataAddr p := rfl

/-! ## `setDisp` -/

@[simp] theorem State.setDisp_v (s : State) (d : Display) : (s.setDisp d).v = s.v := rfl
@[simp] theorem State.setDisp_index (s : State) (d : Display) : (s.setDisp d).index = s.index := rfl
@[simp] theorem State.setDisp_pc (s : State) (d : Display) : (s.setDisp d).pc = s.pc := rfl
@[simp] theorem State.setDisp_sp (s : State) (d : Display) : (s.setDisp d).sp = s.sp := rfl
@[simp] theorem State.setDisp_stack (s : State) (d : Display) : (s.setDisp d).stack = s.stack := rfl
@[simp] theorem State.setDisp_mem (s : State) (d : Display) : (s.setDisp d).mem = s.mem := rfl
@[simp] theorem State.setDisp_disp (s : State) (d : Display) : (s.setDisp d).disp = d := rfl
@[simp] theorem State.setDisp_key (s : State) (d : Display) : (s.setDisp d).key = s.key := rfl
@[simp] theorem State.setDisp_dt (s : State) (d : Display) : (s.setDisp d).dt = s.dt := rfl
@[simp] theorem State.setDisp_st (s : State) (d : Display) : (s.setDisp d).st = s.st := rfl
@[simp] theorem State.setDisp_ir (s : State) (d : Display) : (s.setDisp d).ir = s.ir := rfl
@[simp] theorem State.setDisp_runState (s : State) (d : Display) : (s.setDisp d).runState = s.runState := rfl
@[simp] theorem State.setDisp_faultCause (s : State) (d : Display) : (s.setDisp d).faultCause = s.faultCause := rfl
@[simp] theorem State.setDisp_faultPc (s : State) (d : Display) : (s.setDisp d).faultPc = s.faultPc := rfl
@[simp] theorem State.setDisp_pending (s : State) (d : Display) : (s.setDisp d).pending = s.pending := rfl
@[simp] theorem State.setDisp_frameReady (s : State) (d : Display) : (s.setDisp d).frameReady = s.frameReady := rfl
@[simp] theorem State.setDisp_cfg (s : State) (d : Display) : (s.setDisp d).cfg = s.cfg := rfl
@[simp] theorem State.setDisp_script (s : State) (d : Display) : (s.setDisp d).script = s.script := rfl
@[simp] theorem State.setDisp_time (s : State) (d : Display) : (s.setDisp d).time = s.time := rfl
@[simp] theorem State.setDisp_reg (s : State) (d : Display) (q : Reg) : (s.setDisp d).reg q = s.reg q := rfl
@[simp] theorem State.setDisp_byteAt (s : State) (d : Display) (p : Nat) : (s.setDisp d).byteAt p = s.byteAt p := rfl
@[simp] theorem State.setDisp_keyPressed (s : State) (d : Display) (q : KeyNum) : (s.setDisp d).keyPressed q = s.keyPressed q := rfl
@[simp] theorem State.setDisp_input (s : State) (d : Display) : (s.setDisp d).input = s.input := rfl
@[simp] theorem State.setDisp_dataAddr (s : State) (d : Display) (p : Nat) : (s.setDisp d).dataAddr p = s.dataAddr p := rfl

/-! ## `setKey` -/

@[simp] theorem State.setKey_v (s : State) (k : KeyNum) (b : Bool) : (s.setKey k b).v = s.v := rfl
@[simp] theorem State.setKey_index (s : State) (k : KeyNum) (b : Bool) : (s.setKey k b).index = s.index := rfl
@[simp] theorem State.setKey_pc (s : State) (k : KeyNum) (b : Bool) : (s.setKey k b).pc = s.pc := rfl
@[simp] theorem State.setKey_sp (s : State) (k : KeyNum) (b : Bool) : (s.setKey k b).sp = s.sp := rfl
@[simp] theorem State.setKey_stack (s : State) (k : KeyNum) (b : Bool) : (s.setKey k b).stack = s.stack := rfl
@[simp] theorem State.setKey_mem (s : State) (k : KeyNum) (b : Bool) : (s.setKey k b).mem = s.mem := rfl
@[simp] theorem State.setKey_disp (s : State) (k : KeyNum) (b : Bool) : (s.setKey k b).disp = s.disp := rfl
@[simp] theorem State.setKey_key (s : State) (k : KeyNum) (b : Bool) : (s.setKey k b).key = s.key.set k b := rfl
@[simp] theorem State.setKey_dt (s : State) (k : KeyNum) (b : Bool) : (s.setKey k b).dt = s.dt := rfl
@[simp] theorem State.setKey_st (s : State) (k : KeyNum) (b : Bool) : (s.setKey k b).st = s.st := rfl
@[simp] theorem State.setKey_ir (s : State) (k : KeyNum) (b : Bool) : (s.setKey k b).ir = s.ir := rfl
@[simp] theorem State.setKey_runState (s : State) (k : KeyNum) (b : Bool) : (s.setKey k b).runState = s.runState := rfl
@[simp] theorem State.setKey_faultCause (s : State) (k : KeyNum) (b : Bool) : (s.setKey k b).faultCause = s.faultCause := rfl
@[simp] theorem State.setKey_faultPc (s : State) (k : KeyNum) (b : Bool) : (s.setKey k b).faultPc = s.faultPc := rfl
@[simp] theorem State.setKey_pending (s : State) (k : KeyNum) (b : Bool) : (s.setKey k b).pending = s.pending := rfl
@[simp] theorem State.setKey_frameReady (s : State) (k : KeyNum) (b : Bool) : (s.setKey k b).frameReady = s.frameReady := rfl
@[simp] theorem State.setKey_cfg (s : State) (k : KeyNum) (b : Bool) : (s.setKey k b).cfg = s.cfg := rfl
@[simp] theorem State.setKey_script (s : State) (k : KeyNum) (b : Bool) : (s.setKey k b).script = s.script := rfl
@[simp] theorem State.setKey_time (s : State) (k : KeyNum) (b : Bool) : (s.setKey k b).time = s.time := rfl
@[simp] theorem State.setKey_reg (s : State) (k : KeyNum) (b : Bool) (q : Reg) : (s.setKey k b).reg q = s.reg q := rfl
@[simp] theorem State.setKey_byteAt (s : State) (k : KeyNum) (b : Bool) (p : Nat) : (s.setKey k b).byteAt p = s.byteAt p := rfl
@[simp] theorem State.setKey_input (s : State) (k : KeyNum) (b : Bool) : (s.setKey k b).input = s.input := rfl
@[simp] theorem State.setKey_dataAddr (s : State) (k : KeyNum) (b : Bool) (p : Nat) : (s.setKey k b).dataAddr p = s.dataAddr p := rfl

/-! ## `storeByte` -/

@[simp] theorem State.storeByte_v (s : State) (a : Nat) (b : Byte) : (s.storeByte a b).v = s.v := rfl
@[simp] theorem State.storeByte_index (s : State) (a : Nat) (b : Byte) : (s.storeByte a b).index = s.index := rfl
@[simp] theorem State.storeByte_pc (s : State) (a : Nat) (b : Byte) : (s.storeByte a b).pc = s.pc := rfl
@[simp] theorem State.storeByte_sp (s : State) (a : Nat) (b : Byte) : (s.storeByte a b).sp = s.sp := rfl
@[simp] theorem State.storeByte_stack (s : State) (a : Nat) (b : Byte) : (s.storeByte a b).stack = s.stack := rfl
@[simp] theorem State.storeByte_mem (s : State) (a : Nat) (b : Byte) : (s.storeByte a b).mem = s.mem.put s.cfg.font a b := rfl
@[simp] theorem State.storeByte_disp (s : State) (a : Nat) (b : Byte) : (s.storeByte a b).disp = s.disp := rfl
@[simp] theorem State.storeByte_key (s : State) (a : Nat) (b : Byte) : (s.storeByte a b).key = s.key := rfl
@[simp] theorem State.storeByte_dt (s : State) (a : Nat) (b : Byte) : (s.storeByte a b).dt = s.dt := rfl
@[simp] theorem State.storeByte_st (s : State) (a : Nat) (b : Byte) : (s.storeByte a b).st = s.st := rfl
@[simp] theorem State.storeByte_ir (s : State) (a : Nat) (b : Byte) : (s.storeByte a b).ir = s.ir := rfl
@[simp] theorem State.storeByte_runState (s : State) (a : Nat) (b : Byte) : (s.storeByte a b).runState = s.runState := rfl
@[simp] theorem State.storeByte_faultCause (s : State) (a : Nat) (b : Byte) : (s.storeByte a b).faultCause = s.faultCause := rfl
@[simp] theorem State.storeByte_faultPc (s : State) (a : Nat) (b : Byte) : (s.storeByte a b).faultPc = s.faultPc := rfl
@[simp] theorem State.storeByte_pending (s : State) (a : Nat) (b : Byte) : (s.storeByte a b).pending = s.pending := rfl
@[simp] theorem State.storeByte_frameReady (s : State) (a : Nat) (b : Byte) : (s.storeByte a b).frameReady = s.frameReady := rfl
@[simp] theorem State.storeByte_cfg (s : State) (a : Nat) (b : Byte) : (s.storeByte a b).cfg = s.cfg := rfl
@[simp] theorem State.storeByte_script (s : State) (a : Nat) (b : Byte) : (s.storeByte a b).script = s.script := rfl
@[simp] theorem State.storeByte_time (s : State) (a : Nat) (b : Byte) : (s.storeByte a b).time = s.time := rfl
@[simp] theorem State.storeByte_reg (s : State) (a : Nat) (b : Byte) (q : Reg) : (s.storeByte a b).reg q = s.reg q := rfl
@[simp] theorem State.storeByte_keyPressed (s : State) (a : Nat) (b : Byte) (q : KeyNum) : (s.storeByte a b).keyPressed q = s.keyPressed q := rfl
@[simp] theorem State.storeByte_input (s : State) (a : Nat) (b : Byte) : (s.storeByte a b).input = s.input := rfl
@[simp] theorem State.storeByte_dataAddr (s : State) (a : Nat) (b : Byte) (p : Nat) : (s.storeByte a b).dataAddr p = s.dataAddr p := rfl

/-! ## `setPending` -/

@[simp] theorem State.setPending_v (s : State) (es : List HostEvent) : (s.setPending es).v = s.v := rfl
@[simp] theorem State.setPending_index (s : State) (es : List HostEvent) : (s.setPending es).index = s.index := rfl
@[simp] theorem State.setPending_pc (s : State) (es : List HostEvent) : (s.setPending es).pc = s.pc := rfl
@[simp] theorem State.setPending_sp (s : State) (es : List HostEvent) : (s.setPending es).sp = s.sp := rfl
@[simp] theorem State.setPending_stack (s : State) (es : List HostEvent) : (s.setPending es).stack = s.stack := rfl
@[simp] theorem State.setPending_mem (s : State) (es : List HostEvent) : (s.setPending es).mem = s.mem := rfl
@[simp] theorem State.setPending_disp (s : State) (es : List HostEvent) : (s.setPending es).disp = s.disp := rfl
@[simp] theorem State.setPending_key (s : State) (es : List HostEvent) : (s.setPending es).key = s.key := rfl
@[simp] theorem State.setPending_dt (s : State) (es : List HostEvent) : (s.setPending es).dt = s.dt := rfl
@[simp] theorem State.setPending_st (s : State) (es : List HostEvent) : (s.setPending es).st = s.st := rfl
@[simp] theorem State.setPending_ir (s : State) (es : List HostEvent) : (s.setPending es).ir = s.ir := rfl
@[simp] theorem State.setPending_runState (s : State) (es : List HostEvent) : (s.setPending es).runState = s.runState := rfl
@[simp] theorem State.setPending_faultCause (s : State) (es : List HostEvent) : (s.setPending es).faultCause = s.faultCause := rfl
@[simp] theorem State.setPending_faultPc (s : State) (es : List HostEvent) : (s.setPending es).faultPc = s.faultPc := rfl
@[simp] theorem State.setPending_pending (s : State) (es : List HostEvent) : (s.setPending es).pending = es := rfl
@[simp] theorem State.setPending_frameReady (s : State) (es : List HostEvent) : (s.setPending es).frameReady = s.frameReady := rfl
@[simp] theorem State.setPending_cfg (s : State) (es : List HostEvent) : (s.setPending es).cfg = s.cfg := rfl
@[simp] theorem State.setPending_script (s : State) (es : List HostEvent) : (s.setPending es).script = s.script := rfl
@[simp] theorem State.setPending_time (s : State) (es : List HostEvent) : (s.setPending es).time = s.time := rfl
@[simp] theorem State.setPending_reg (s : State) (es : List HostEvent) (q : Reg) : (s.setPending es).reg q = s.reg q := rfl
@[simp] theorem State.setPending_byteAt (s : State) (es : List HostEvent) (p : Nat) : (s.setPending es).byteAt p = s.byteAt p := rfl
@[simp] theorem State.setPending_keyPressed (s : State) (es : List HostEvent) (q : KeyNum) : (s.setPending es).keyPressed q = s.keyPressed q := rfl
@[simp] theorem State.setPending_input (s : State) (es : List HostEvent) : (s.setPending es).input = s.input := rfl
@[simp] theorem State.setPending_dataAddr (s : State) (es : List HostEvent) (p : Nat) : (s.setPending es).dataAddr p = s.dataAddr p := rfl

/-! ## `raiseAt` -/

@[simp] theorem State.raiseAt_v (s : State) (a : Word) (r : FaultReport) : (s.raiseAt a r).v = s.v := rfl
@[simp] theorem State.raiseAt_index (s : State) (a : Word) (r : FaultReport) : (s.raiseAt a r).index = s.index := rfl
@[simp] theorem State.raiseAt_pc (s : State) (a : Word) (r : FaultReport) : (s.raiseAt a r).pc = a := rfl
@[simp] theorem State.raiseAt_sp (s : State) (a : Word) (r : FaultReport) : (s.raiseAt a r).sp = s.sp := rfl
@[simp] theorem State.raiseAt_stack (s : State) (a : Word) (r : FaultReport) : (s.raiseAt a r).stack = s.stack := rfl
@[simp] theorem State.raiseAt_mem (s : State) (a : Word) (r : FaultReport) : (s.raiseAt a r).mem = s.mem := rfl
@[simp] theorem State.raiseAt_disp (s : State) (a : Word) (r : FaultReport) : (s.raiseAt a r).disp = s.disp := rfl
@[simp] theorem State.raiseAt_key (s : State) (a : Word) (r : FaultReport) : (s.raiseAt a r).key = s.key := rfl
@[simp] theorem State.raiseAt_dt (s : State) (a : Word) (r : FaultReport) : (s.raiseAt a r).dt = s.dt := rfl
@[simp] theorem State.raiseAt_st (s : State) (a : Word) (r : FaultReport) : (s.raiseAt a r).st = s.st := rfl
@[simp] theorem State.raiseAt_ir (s : State) (a : Word) (r : FaultReport) : (s.raiseAt a r).ir = s.ir := rfl
@[simp] theorem State.raiseAt_runState (s : State) (a : Word) (r : FaultReport) : (s.raiseAt a r).runState = .faulted := rfl
@[simp] theorem State.raiseAt_faultCause (s : State) (a : Word) (r : FaultReport) : (s.raiseAt a r).faultCause = r.cause := rfl
@[simp] theorem State.raiseAt_faultPc (s : State) (a : Word) (r : FaultReport) : (s.raiseAt a r).faultPc = a := rfl
@[simp] theorem State.raiseAt_pending (s : State) (a : Word) (r : FaultReport) : (s.raiseAt a r).pending = s.pending := rfl
@[simp] theorem State.raiseAt_frameReady (s : State) (a : Word) (r : FaultReport) : (s.raiseAt a r).frameReady = s.frameReady := rfl
@[simp] theorem State.raiseAt_cfg (s : State) (a : Word) (r : FaultReport) : (s.raiseAt a r).cfg = s.cfg := rfl
@[simp] theorem State.raiseAt_script (s : State) (a : Word) (r : FaultReport) : (s.raiseAt a r).script = s.script := rfl
@[simp] theorem State.raiseAt_time (s : State) (a : Word) (r : FaultReport) : (s.raiseAt a r).time = s.time := rfl
@[simp] theorem State.raiseAt_reg (s : State) (a : Word) (r : FaultReport) (q : Reg) : (s.raiseAt a r).reg q = s.reg q := rfl
@[simp] theorem State.raiseAt_byteAt (s : State) (a : Word) (r : FaultReport) (p : Nat) : (s.raiseAt a r).byteAt p = s.byteAt p := rfl
@[simp] theorem State.raiseAt_keyPressed (s : State) (a : Word) (r : FaultReport) (q : KeyNum) : (s.raiseAt a r).keyPressed q = s.keyPressed q := rfl
@[simp] theorem State.raiseAt_input (s : State) (a : Word) (r : FaultReport) : (s.raiseAt a r).input = s.input := rfl
@[simp] theorem State.raiseAt_dataAddr (s : State) (a : Word) (r : FaultReport) (p : Nat) : (s.raiseAt a r).dataAddr p = s.dataAddr p := rfl

/-! ## `phaseT` -/

@[simp] theorem State.phaseT_v (s : State) : s.phaseT.v = s.v := rfl
@[simp] theorem State.phaseT_index (s : State) : s.phaseT.index = s.index := rfl
@[simp] theorem State.phaseT_pc (s : State) : s.phaseT.pc = s.pc := rfl
@[simp] theorem State.phaseT_sp (s : State) : s.phaseT.sp = s.sp := rfl
@[simp] theorem State.phaseT_stack (s : State) : s.phaseT.stack = s.stack := rfl
@[simp] theorem State.phaseT_mem (s : State) : s.phaseT.mem = s.mem := rfl
@[simp] theorem State.phaseT_disp (s : State) : s.phaseT.disp = s.disp := rfl
@[simp] theorem State.phaseT_key (s : State) : s.phaseT.key = s.key := rfl
@[simp] theorem State.phaseT_dt (s : State) : s.phaseT.dt = tickIf s.input.tickDue s.dt := rfl
@[simp] theorem State.phaseT_st (s : State) : s.phaseT.st = tickIf s.input.tickDue s.st := rfl
@[simp] theorem State.phaseT_ir (s : State) : s.phaseT.ir = s.ir := rfl
@[simp] theorem State.phaseT_runState (s : State) : s.phaseT.runState = s.runState := rfl
@[simp] theorem State.phaseT_faultCause (s : State) : s.phaseT.faultCause = s.faultCause := rfl
@[simp] theorem State.phaseT_faultPc (s : State) : s.phaseT.faultPc = s.faultPc := rfl
@[simp] theorem State.phaseT_pending (s : State) : s.phaseT.pending = s.pending := rfl
@[simp] theorem State.phaseT_frameReady (s : State) : s.phaseT.frameReady = s.frameReady := rfl
@[simp] theorem State.phaseT_cfg (s : State) : s.phaseT.cfg = s.cfg := rfl
@[simp] theorem State.phaseT_script (s : State) : s.phaseT.script = s.script := rfl
@[simp] theorem State.phaseT_time (s : State) : s.phaseT.time = s.time := rfl
@[simp] theorem State.phaseT_reg (s : State) (q : Reg) : s.phaseT.reg q = s.reg q := rfl
@[simp] theorem State.phaseT_byteAt (s : State) (p : Nat) : s.phaseT.byteAt p = s.byteAt p := rfl
@[simp] theorem State.phaseT_keyPressed (s : State) (q : KeyNum) : s.phaseT.keyPressed q = s.keyPressed q := rfl
@[simp] theorem State.phaseT_input (s : State) : s.phaseT.input = s.input := rfl
@[simp] theorem State.phaseT_dataAddr (s : State) (p : Nat) : s.phaseT.dataAddr p = s.dataAddr p := rfl

/-! ## `phaseP` -/

@[simp] theorem State.phaseP_v (s : State) (w : Word) : (s.phaseP w).v = s.v := rfl
@[simp] theorem State.phaseP_index (s : State) (w : Word) : (s.phaseP w).index = s.index := rfl
@[simp] theorem State.phaseP_pc (s : State) (w : Word) : (s.phaseP w).pc = s.pc := rfl
@[simp] theorem State.phaseP_sp (s : State) (w : Word) : (s.phaseP w).sp = s.sp := rfl
@[simp] theorem State.phaseP_stack (s : State) (w : Word) : (s.phaseP w).stack = s.stack := rfl
@[simp] theorem State.phaseP_mem (s : State) (w : Word) : (s.phaseP w).mem = s.mem := rfl
@[simp] theorem State.phaseP_disp (s : State) (w : Word) : (s.phaseP w).disp = s.disp := rfl
@[simp] theorem State.phaseP_key (s : State) (w : Word) : (s.phaseP w).key = s.key := rfl
@[simp] theorem State.phaseP_dt (s : State) (w : Word) : (s.phaseP w).dt = s.dt := rfl
@[simp] theorem State.phaseP_st (s : State) (w : Word) : (s.phaseP w).st = s.st := rfl
@[simp] theorem State.phaseP_ir (s : State) (w : Word) : (s.phaseP w).ir = s.ir := rfl
@[simp] theorem State.phaseP_runState (s : State) (w : Word) : (s.phaseP w).runState = s.runState := rfl
@[simp] theorem State.phaseP_faultCause (s : State) (w : Word) : (s.phaseP w).faultCause = s.faultCause := rfl
@[simp] theorem State.phaseP_faultPc (s : State) (w : Word) : (s.phaseP w).faultPc = s.faultPc := rfl
@[simp] theorem State.phaseP_pending (s : State) (w : Word) : (s.phaseP w).pending = s.pending := rfl
@[simp] theorem State.phaseP_frameReady (s : State) (w : Word) : (s.phaseP w).frameReady = (decide (s.runState ≠ .faulted) && fieldGroup w == 0xD) := rfl
@[simp] theorem State.phaseP_cfg (s : State) (w : Word) : (s.phaseP w).cfg = s.cfg := rfl
@[simp] theorem State.phaseP_script (s : State) (w : Word) : (s.phaseP w).script = s.script := rfl
@[simp] theorem State.phaseP_time (s : State) (w : Word) : (s.phaseP w).time = s.time := rfl
@[simp] theorem State.phaseP_reg (s : State) (w : Word) (q : Reg) : (s.phaseP w).reg q = s.reg q := rfl
@[simp] theorem State.phaseP_byteAt (s : State) (w : Word) (p : Nat) : (s.phaseP w).byteAt p = s.byteAt p := rfl
@[simp] theorem State.phaseP_keyPressed (s : State) (w : Word) (q : KeyNum) : (s.phaseP w).keyPressed q = s.keyPressed q := rfl
@[simp] theorem State.phaseP_input (s : State) (w : Word) : (s.phaseP w).input = s.input := rfl
@[simp] theorem State.phaseP_dataAddr (s : State) (w : Word) (p : Nat) : (s.phaseP w).dataAddr p = s.dataAddr p := rfl

/-! ## `beginStep` -/

@[simp] theorem State.beginStep_v (s : State) : s.beginStep.v = s.v := rfl
@[simp] theorem State.beginStep_index (s : State) : s.beginStep.index = s.index := rfl
@[simp] theorem State.beginStep_pc (s : State) : s.beginStep.pc = s.pc := rfl
@[simp] theorem State.beginStep_sp (s : State) : s.beginStep.sp = s.sp := rfl
@[simp] theorem State.beginStep_stack (s : State) : s.beginStep.stack = s.stack := rfl
@[simp] theorem State.beginStep_mem (s : State) : s.beginStep.mem = s.mem := rfl
@[simp] theorem State.beginStep_disp (s : State) : s.beginStep.disp = s.disp := rfl
@[simp] theorem State.beginStep_key (s : State) : s.beginStep.key = s.key := rfl
@[simp] theorem State.beginStep_dt (s : State) : s.beginStep.dt = s.dt := rfl
@[simp] theorem State.beginStep_st (s : State) : s.beginStep.st = s.st := rfl
@[simp] theorem State.beginStep_ir (s : State) : s.beginStep.ir = s.ir := rfl
@[simp] theorem State.beginStep_runState (s : State) : s.beginStep.runState = s.runState := rfl
@[simp] theorem State.beginStep_faultCause (s : State) : s.beginStep.faultCause = s.faultCause := rfl
@[simp] theorem State.beginStep_faultPc (s : State) : s.beginStep.faultPc = s.faultPc := rfl
@[simp] theorem State.beginStep_pending (s : State) : s.beginStep.pending = s.pending := rfl
@[simp] theorem State.beginStep_frameReady (s : State) : s.beginStep.frameReady = false := rfl
@[simp] theorem State.beginStep_cfg (s : State) : s.beginStep.cfg = s.cfg := rfl
@[simp] theorem State.beginStep_script (s : State) : s.beginStep.script = s.script := rfl
@[simp] theorem State.beginStep_time (s : State) : s.beginStep.time = s.time := rfl
@[simp] theorem State.beginStep_reg (s : State) (q : Reg) : s.beginStep.reg q = s.reg q := rfl
@[simp] theorem State.beginStep_byteAt (s : State) (p : Nat) : s.beginStep.byteAt p = s.byteAt p := rfl
@[simp] theorem State.beginStep_keyPressed (s : State) (q : KeyNum) : s.beginStep.keyPressed q = s.keyPressed q := rfl
@[simp] theorem State.beginStep_input (s : State) : s.beginStep.input = s.input := rfl
@[simp] theorem State.beginStep_dataAddr (s : State) (p : Nat) : s.beginStep.dataAddr p = s.dataAddr p := rfl

/-! ## `endStep` -/

@[simp] theorem State.endStep_v (s : State) : s.endStep.v = s.v := rfl
@[simp] theorem State.endStep_index (s : State) : s.endStep.index = s.index := rfl
@[simp] theorem State.endStep_pc (s : State) : s.endStep.pc = s.pc := rfl
@[simp] theorem State.endStep_sp (s : State) : s.endStep.sp = s.sp := rfl
@[simp] theorem State.endStep_stack (s : State) : s.endStep.stack = s.stack := rfl
@[simp] theorem State.endStep_mem (s : State) : s.endStep.mem = s.mem := rfl
@[simp] theorem State.endStep_disp (s : State) : s.endStep.disp = s.disp := rfl
@[simp] theorem State.endStep_key (s : State) : s.endStep.key = s.key := rfl
@[simp] theorem State.endStep_dt (s : State) : s.endStep.dt = s.dt := rfl
@[simp] theorem State.endStep_st (s : State) : s.endStep.st = s.st := rfl
@[simp] theorem State.endStep_ir (s : State) : s.endStep.ir = s.ir := rfl
@[simp] theorem State.endStep_runState (s : State) : s.endStep.runState = s.runState := rfl
@[simp] theorem State.endStep_faultCause (s : State) : s.endStep.faultCause = s.faultCause := rfl
@[simp] theorem State.endStep_faultPc (s : State) : s.endStep.faultPc = s.faultPc := rfl
@[simp] theorem State.endStep_pending (s : State) : s.endStep.pending = s.pending := rfl
@[simp] theorem State.endStep_frameReady (s : State) : s.endStep.frameReady = s.frameReady := rfl
@[simp] theorem State.endStep_cfg (s : State) : s.endStep.cfg = s.cfg := rfl
@[simp] theorem State.endStep_script (s : State) : s.endStep.script = s.script.tail := rfl
@[simp] theorem State.endStep_time (s : State) : s.endStep.time = s.time + 1 := rfl
@[simp] theorem State.endStep_reg (s : State) (q : Reg) : s.endStep.reg q = s.reg q := rfl
@[simp] theorem State.endStep_byteAt (s : State) (p : Nat) : s.endStep.byteAt p = s.byteAt p := rfl
@[simp] theorem State.endStep_keyPressed (s : State) (q : KeyNum) : s.endStep.keyPressed q = s.keyPressed q := rfl
@[simp] theorem State.endStep_dataAddr (s : State) (p : Nat) : s.endStep.dataAddr p = s.dataAddr p := rfl

end Sys2Proof.Machine
end

