-- ==== Sys2Proof/Laws/Memory.lean ====
section
/-! SUPPORT. The memory bank: what a read gives after a write, and that every operation keeps the canonical form. -/

namespace Sys2Proof.Machine

variable {font : Vector Byte 80} {a p : Nat} {b : Byte} {m : Memory}

theorem Memory.get_insert : (Memory.insert a b m).get font p = if p = a then b else m.get font p := by
  induction m with
  | nil => simp [Memory.insert, Memory.get, eq_comm]
  | cons c m ih =>
    unfold Memory.insert
    split
    · simp [Memory.get, eq_comm]
    · split
      · rename_i h; subst h; by_cases e : p = c.1 <;> simp [Memory.get, e, eq_comm]
      · rename_i h
        simp only [Memory.get, ih]
        by_cases e : c.1 = p
        · subst e; simp [Ne.symm h]
        · simp [e]

theorem Memory.get_erase : (Memory.erase a m).get font p = if p = a then unlisted font p else m.get font p := by
  induction m with
  | nil => simp [Memory.erase, Memory.get]
  | cons c m ih =>
    unfold Memory.erase at ih ⊢
    by_cases h : c.1 = a
    · rw [List.filter_cons_of_neg (by simpa using h), ih]
      by_cases e : p = a
      · simp [e]
      · have : c.1 ≠ p := fun q => e (q.symm.trans h)
        simp [e, Memory.get, this]
    · rw [List.filter_cons_of_pos (by simpa using h)]
      simp only [Memory.get, ih]
      by_cases e : c.1 = p
      · subst e; simp [h]
      · simp [e]

/-- The law of read after write, for the whole address space. -/
theorem Memory.get_put (h : a ≤ 0xFFF) : (Memory.put font a b m).get font p = if p = a then b else m.get font p := by
  unfold Memory.put
  rw [if_neg (by omega)]
  split
  · rename_i e; rw [Memory.get_erase]
    by_cases q : p = a
    · simp [q, e]
    · simp [q]
  · exact Memory.get_insert

/-- A write above 0xFFF has no cell to go to. -/
theorem Memory.put_beyond (h : a > 0xFFF) : Memory.put font a b m = m := if_pos h

theorem Memory.mem_insert {c : Host.Cell} (h : c ∈ Memory.insert a b m) : c = (a, b) ∨ c ∈ m := by
  induction m with
  | nil => simpa [Memory.insert] using h
  | cons d m ih =>
    unfold Memory.insert at h
    split at h
    · simpa using h
    · split at h
      · rcases List.mem_cons.1 h with h | h
        · exact .inl h
        · exact .inr (List.mem_cons_of_mem _ h)
      · rcases List.mem_cons.1 h with h | h
        · exact .inr (h ▸ List.mem_cons_self)
        · exact (ih h).imp id (List.mem_cons_of_mem _)

theorem Memory.insert_rising (h : m.Pairwise fun c d => c.1 < d.1) :
    (Memory.insert a b m).Pairwise fun c d => c.1 < d.1 := by
  induction m with
  | nil => simp [Memory.insert]
  | cons c m ih =>
    obtain ⟨hc, hm⟩ := List.pairwise_cons.1 h
    unfold Memory.insert
    split
    · rename_i lt
      refine List.pairwise_cons.2 ⟨fun d hd => ?_, h⟩
      rcases List.mem_cons.1 hd with rfl | hd
      · exact lt
      · exact Nat.lt_trans lt (hc d hd)
    · split
      · rename_i e
        exact List.pairwise_cons.2 ⟨fun d hd => e ▸ hc d hd, hm⟩
      · rename_i nlt ne
        refine List.pairwise_cons.2 ⟨fun d hd => ?_, ih hm⟩
        rcases Memory.mem_insert hd with rfl | hd
        · simp only; omega
        · exact hc d hd

/-- Every write keeps the canonical form. -/
theorem Memory.put_wf (h : Memory.wf font m) : Memory.wf font (Memory.put font a b m) := by
  obtain ⟨rising, cells⟩ := h
  unfold Memory.put
  split
  · exact ⟨rising, cells⟩
  · rename_i le
    split
    · refine ⟨rising.filter _, fun c hc => cells c (List.mem_filter.1 hc).1⟩
    · rename_i ne
      refine ⟨Memory.insert_rising rising, fun c hc => ?_⟩
      rcases Memory.mem_insert hc with rfl | hc
      · exact ⟨by simp only; omega, ne⟩
      · exact cells c hc

theorem Memory.nil_wf : Memory.wf font [] := ⟨List.Pairwise.nil, fun _ h => absurd h List.not_mem_nil⟩

/-! ## The same laws on the state -/

theorem State.byteAt_storeByte (s : State) (h : a ≤ 0xFFF) :
    (s.storeByte a b).byteAt p = if p = a then b else s.byteAt p := Memory.get_put h

theorem State.byteAt_storeByte_same (s : State) (h : a ≤ 0xFFF) : (s.storeByte a b).byteAt a = b := by
  simp [State.byteAt_storeByte s h]

/-- A store leaves every other address alone, wherever it goes. -/
theorem State.byteAt_storeByte_other (s : State) (h : p ≠ a) : (s.storeByte a b).byteAt p = s.byteAt p := by
  by_cases le : a ≤ 0xFFF
  · simp [State.byteAt_storeByte s le, h]
  · simp [State.byteAt, State.storeByte, Memory.put_beyond (Nat.lt_of_not_le le)]

theorem State.storeByte_wf (s : State) (h : Memory.wf s.cfg.font s.mem) :
    Memory.wf (s.storeByte a b).cfg.font (s.storeByte a b).mem := Memory.put_wf h

end Sys2Proof.Machine
end

