-- ==== Sys2Proof/Laws/Registers.lean ====
section
/-! SUPPORT. Registers, call stack, keypad, faults and operands: what each shared operation can do. -/

namespace Sys2Proof.Machine

variable (s : State)

/-! ## Registers -/

theorem State.reg_setReg (r q : Reg) (b : Byte) : (s.setReg r b).reg q = if q = r then b else s.reg q := by
  simp only [State.reg, State.setReg, Fin.getElem_fin, Vector.getElem_set]
  by_cases h : q = r
  · simp [h]
  · simp [h, Fin.val_ne_of_ne (Ne.symm h)]

@[simp] theorem State.reg_setReg_same (r : Reg) (b : Byte) : (s.setReg r b).reg r = b := by simp [State.reg_setReg]

theorem State.reg_setReg_other {r q : Reg} (b : Byte) (h : q ≠ r) : (s.setReg r b).reg q = s.reg q := by
  simp [State.reg_setReg, h]

theorem State.keyPressed_setKey (k q : KeyNum) (b : Bool) :
    (s.setKey k b).keyPressed q = if q = k then b else s.keyPressed q := by
  simp only [State.keyPressed, State.setKey, Fin.getElem_fin, Vector.getElem_set]
  by_cases h : q = k
  · simp [h]
  · simp [h, Fin.val_ne_of_ne (Ne.symm h)]

/-- A write of the flag, then of the result: `V[x]` holds the result, `VF` the flag unless it is `V[x]`. -/
theorem State.reg_flagThen (f : Bool) (x q : Reg) (result : State → Byte) :
    (s.flagThen f x result).reg q =
      if q = x then result (s.setReg VF (flagByte f)) else if q = VF then flagByte f else s.reg q := by
  simp [State.flagThen, State.reg_setReg]

/-- The registers as the write of the flag left them (R170). -/
theorem State.flagThen_eq (f : Bool) (x : Reg) (result : State → Byte) :
    ∃ v, s.flagThen f x result = { s with v := v } := ⟨_, rfl⟩

/-! ## Skips -/

theorem State.skipIf_eq (c : Bool) : s.skipIf c = s.setPc (if c then s.pc + 2 else s.pc) := by cases c <;> rfl

/-! ## Call stack -/

/-- A push happens exactly when the stack has room; it writes `stack[sp]` and raises `sp` by one. -/
theorem State.push_eq_some {a : Word} {t : State} : s.push a = some t ↔
    ∃ h : s.sp.val < 16, t = { s with stack := s.stack.set s.sp.val a, sp := ⟨s.sp.val + 1, by omega⟩ } := by
  unfold State.push; split <;> simp_all [eq_comm]

theorem State.push_eq_none {a : Word} : s.push a = none ↔ s.sp.val = 16 := by
  unfold State.push; split <;> simp_all <;> omega

/-- A pop happens exactly when the stack is not empty; it lowers `sp` by one and erases nothing. -/
theorem State.pop_eq_some {a : Word} {t : State} : s.pop = some (a, t) ↔
    ∃ h : 0 < s.sp.val, a = s.stack[s.sp.val - 1] ∧ t = { s with sp := ⟨s.sp.val - 1, by omega⟩ } := by
  unfold State.pop; split <;> simp_all [eq_comm]

theorem State.pop_eq_none : s.pop = none ↔ s.sp.val = 0 := by
  unfold State.pop; split <;> simp_all; omega

/-! ## Faults -/

theorem State.raise_eq (r : FaultReport) :
    s.raise r = { s with pc := s.pc - 2, runState := .faulted, faultCause := r.cause, faultPc := s.pc - 2 } := rfl

/-- The data check passes exactly when every address of the access lies in memory, and else reports MEM_OOB. -/
theorem State.dataFault_eq_none {n : Nat} : s.dataFault n = none ↔ (n = 0 ∨ s.index.toNat + n ≤ 0x1000) := by
  unfold State.dataFault State.dataAddr; split <;> simp <;> omega

theorem State.dataFault_eq_some {n : Nat} {r : FaultReport} : s.dataFault n = some r ↔
    (0 < n ∧ 0x1000 < s.index.toNat + n ∧ r = ⟨.memOob, s.index.toNat + n - 1⟩) := by
  unfold State.dataFault State.dataAddr
  split
  · rename_i h
    have e : s.index.toNat + (n - 1) = s.index.toNat + n - 1 := by omega
    simp only [e, Option.some.injEq, eq_comm (a := r)]
    constructor
    · exact fun q => ⟨h.1, by omega, q⟩
    · exact fun q => q.2.2
  · simp; omega

/-- A register holds a key number exactly when it is at most 15, and else KEY_INDEX is reported. -/
theorem State.keyOperand_ok {x : Reg} {k : KeyNum} : s.keyOperand x = .ok k ↔ (s.reg x).toNat = k.val := by
  unfold State.keyOperand
  split
  · simp [Fin.ext_iff]
  · simp; omega

theorem State.keyOperand_error {x : Reg} {r : FaultReport} : s.keyOperand x = .error r ↔
    (15 < (s.reg x).toNat ∧ r = ⟨.keyIndex, (s.reg x).toNat⟩) := by
  unfold State.keyOperand
  split
  · simp; omega
  · simp only [Except.error.injEq, eq_comm (a := r)]
    constructor
    · exact fun q => ⟨by omega, q⟩
    · exact fun q => q.2

end Sys2Proof.Machine
end

