-- ==== Sys2Proof/Laws/Blocks.lean ====
section
/-! SUPPORT. The register block instructions: what storing and loading `V[0..x]` does. -/

namespace Sys2Proof.Machine

variable (s : State)

/-- Storing registers changes memory and nothing else. -/
theorem State.storeRegs_eq (n : Nat) : ∃ m, s.storeRegs n = { s with mem := m } := by
  induction n with
  | zero => exact ⟨s.mem, rfl⟩
  | succ k ih => obtain ⟨m, h⟩ := ih; exact ⟨_, by rw [State.storeRegs, h]; rfl⟩

/-- Loading registers changes the registers and nothing else. -/
theorem State.loadRegs_eq (n : Nat) : ∃ v, s.loadRegs n = { s with v := v } := by
  induction n with
  | zero => exact ⟨s.v, rfl⟩
  | succ k ih => obtain ⟨v, h⟩ := ih; exact ⟨_, by rw [State.loadRegs, h]; rfl⟩

/-- Memory after storing `n` registers: `V[k]` at `I + k` for `k < n`, every other byte as before. -/
theorem State.byteAt_storeRegs (n p : Nat) (h : s.index.toNat + n ≤ 0x1000) :
    (s.storeRegs n).byteAt p =
      if s.index.toNat ≤ p ∧ p < s.index.toNat + n then s.reg (Fin.ofNat 16 (p - s.index.toNat)) else s.byteAt p := by
  induction n with
  | zero => simp [State.storeRegs]
  | succ k ih =>
    rw [State.storeRegs, State.byteAt_storeByte _ (by unfold State.dataAddr; omega), ih (by omega)]
    unfold State.dataAddr
    by_cases e : p = s.index.toNat + k
    · subst e; simp
    · rw [if_neg e]
      by_cases l : s.index.toNat ≤ p ∧ p < s.index.toNat + k
      · rw [if_pos l, if_pos ⟨l.1, by omega⟩]
      · rw [if_neg l, if_neg (by omega)]

/-- The registers after loading `n` bytes: `Mem[I + k]` in `V[k]` for `k < n`, every other register as before. -/
theorem State.reg_loadRegs (n : Nat) (r : Reg) (h : n ≤ 16) :
    (s.loadRegs n).reg r = if r.val < n then s.byteAt (s.index.toNat + r.val) else s.reg r := by
  induction n with
  | zero => simp [State.loadRegs]
  | succ k ih =>
    rw [State.loadRegs, State.reg_setReg, ih (by omega)]
    have hk : (Fin.ofNat 16 k).val = k := by simp [Fin.ofNat]; omega
    by_cases e : r = Fin.ofNat 16 k
    · have : r.val = k := by rw [e, hk]
      rw [if_pos e, if_pos (by omega), State.dataAddr, this]
    · have : r.val ≠ k := fun q => e (Fin.ext (q.trans hk.symm))
      rw [if_neg e]
      by_cases l : r.val < k
      · rw [if_pos l, if_pos (by omega)]
      · rw [if_neg l, if_neg (by omega)]

theorem State.storeRegs_wf (n : Nat) (h : Memory.wf s.cfg.font s.mem) :
    Memory.wf (s.storeRegs n).cfg.font (s.storeRegs n).mem := by
  induction n with
  | zero => exact h
  | succ k ih => exact State.storeByte_wf _ ih

end Sys2Proof.Machine
end

