-- ==== Sys2Proof/Laws/Decode.lean ====
section
/-! SUPPORT. The fields of a word built from fields: the arithmetic that every proof about encodings rests on. -/

namespace Sys2Proof

theorem fieldGroup_eq (w : Word) : fieldGroup w = w.toNat / 4096 := by
  have := w.isLt; unfold fieldGroup slice; norm_num; omega

theorem fieldGroup_lt (w : Word) : fieldGroup w < 16 := by
  have := w.isLt; rw [fieldGroup_eq]; omega

theorem fieldX_val (w : Word) : (fieldX w).val = w.toNat / 256 % 16 := by
  unfold fieldX slice; norm_num [Fin.ofNat]

theorem fieldY_val (w : Word) : (fieldY w).val = w.toNat / 16 % 16 := by
  unfold fieldY slice; norm_num [Fin.ofNat]

theorem fieldN_toNat (w : Word) : (fieldN w).toNat = w.toNat % 16 := by
  unfold fieldN slice; norm_num

theorem fieldNN_toNat (w : Word) : (fieldNN w).toNat = w.toNat % 256 := by
  unfold fieldNN slice; norm_num

theorem fieldNNN_toNat (w : Word) : (fieldNNN w).toNat = w.toNat % 4096 := by
  unfold fieldNNN slice; norm_num

variable {g : Nat} (hg : g < 16) (x y : Reg) (n : BitVec 4) (nn : Byte) (nnn : Addr)
include hg

theorem wordNNN_toNat : (wordNNN g nnn).toNat = g * 4096 + nnn.toNat := by
  have := nnn.isLt; unfold wordNNN; rw [BitVec.toNat_ofNat]; omega

theorem wordXNN_toNat : (wordXNN g x nn).toNat = g * 4096 + x.val * 256 + nn.toNat := by
  have := nn.isLt; have := x.isLt; unfold wordXNN; rw [BitVec.toNat_ofNat]; omega

theorem wordXYN_toNat : (wordXYN g x y n).toNat = g * 4096 + x.val * 256 + y.val * 16 + n.toNat := by
  have := n.isLt; have := x.isLt; have := y.isLt; unfold wordXYN; rw [BitVec.toNat_ofNat]; omega

theorem fieldGroup_wordNNN : fieldGroup (wordNNN g nnn) = g := by
  have := nnn.isLt; rw [fieldGroup_eq, wordNNN_toNat hg]; omega

theorem fieldGroup_wordXNN : fieldGroup (wordXNN g x nn) = g := by
  have := nn.isLt; have := x.isLt; rw [fieldGroup_eq, wordXNN_toNat hg]; omega

theorem fieldGroup_wordXYN : fieldGroup (wordXYN g x y n) = g := by
  have := n.isLt; have := x.isLt; have := y.isLt; rw [fieldGroup_eq, wordXYN_toNat hg]; omega

theorem fieldNNN_wordNNN : fieldNNN (wordNNN g nnn) = nnn := by
  apply BitVec.eq_of_toNat_eq; have := nnn.isLt; rw [fieldNNN_toNat, wordNNN_toNat hg]; omega

theorem fieldX_wordXNN : fieldX (wordXNN g x nn) = x := by
  apply Fin.ext; have := nn.isLt; have := x.isLt; rw [fieldX_val, wordXNN_toNat hg]; omega

theorem fieldNN_wordXNN : fieldNN (wordXNN g x nn) = nn := by
  apply BitVec.eq_of_toNat_eq; have := nn.isLt; have := x.isLt; rw [fieldNN_toNat, wordXNN_toNat hg]; omega

theorem fieldX_wordXYN : fieldX (wordXYN g x y n) = x := by
  apply Fin.ext; have := n.isLt; have := x.isLt; have := y.isLt; rw [fieldX_val, wordXYN_toNat hg]; omega

theorem fieldY_wordXYN : fieldY (wordXYN g x y n) = y := by
  apply Fin.ext; have := n.isLt; have := x.isLt; have := y.isLt; rw [fieldY_val, wordXYN_toNat hg]; omega

theorem fieldN_wordXYN : fieldN (wordXYN g x y n) = n := by
  apply BitVec.eq_of_toNat_eq; have := n.isLt; have := x.isLt; have := y.isLt; rw [fieldN_toNat, wordXYN_toNat hg]; omega

end Sys2Proof
end

