-- ==== Sys2Proof/Laws/Display.lean ====
section
/-! SUPPORT. The display buffer: one cell after one flip, all cells after a composition, and where a sprite's bits land. -/

namespace Sys2Proof.Machine

/-- A flip inverts its own cell and no other. -/
theorem Display.cell_flip (d : Display) {j k : Nat} (hk : k ≤ 2047) :
    (d.flip k).cell j = if j = k then !d.cell j else d.cell j := by
  unfold Display.cell Display.flip
  have h1 : k / 64 < 32 := by omega
  by_cases hj : j / 64 < 32
  · simp only [h1, hj, dite_true, Vector.getElem_set]
    by_cases e : k / 64 = j / 64
    · simp only [e, if_true, BitVec.getLsbD_xor, BitVec.getLsbD_shiftLeft, BitVec.getLsbD_one]
      by_cases m : j = k
      · subst m
        have : j % 64 < 64 := Nat.mod_lt _ (by omega)
        simp [this]
      · have hne : ¬ j % 64 = k % 64 := by omega
        have z : (decide (j % 64 < 64) && !decide (j % 64 < k % 64) && decide (j % 64 - k % 64 = 0)) = false := by
          rcases Nat.lt_trichotomy (j % 64) (k % 64) with l | l | l
          · simp [l]
          · exact absurd l hne
          · have : j % 64 - k % 64 ≠ 0 := by omega
            simp [this]
        simp [m, z]
    · have : j ≠ k := by rintro rfl; exact e rfl
      simp [e, this]
  · have : j ≠ k := by omega
    simp [hj, this]

@[simp] theorem Display.cell_blank (j : Nat) : Display.blank.cell j = false := by
  unfold Display.cell Display.blank; split <;> simp

/-- Two buffers with the same 2048 cells are the same buffer. -/
theorem Display.ext_cell {d e : Display} (h : ∀ k ≤ 2047, d.cell k = e.cell k) : d = e := by
  apply Vector.ext
  intro i hi
  apply BitVec.eq_of_getLsbD_eq
  intro j hj
  have hk := h (j + i * 64) (by omega)
  have e1 : (j + i * 64) / 64 = i := by omega
  have e2 : (j + i * 64) % 64 = j := by omega
  simpa [Display.cell, e1, e2, hi] using hk

/-- One cell after a composition over cells each touched once: flipped exactly if it was touched. -/
theorem composite_fold (cells : List Nat) (a : Display × Bool) (inside : ∀ k ∈ cells, k ≤ 2047) (once : cells.Nodup) :
    (∀ j, (cells.foldl drawCell a).1.cell j = (a.1.cell j ^^ decide (j ∈ cells))) ∧
    (cells.foldl drawCell a).2 = (a.2 || cells.any a.1.cell) := by
  induction cells generalizing a with
  | nil => simp
  | cons k ks ih =>
    obtain ⟨hk, hks⟩ := List.nodup_cons.1 once
    obtain ⟨h1, h2⟩ := ih (drawCell a k) (fun q hq => inside q (List.mem_cons_of_mem _ hq)) hks
    have hk' := inside k List.mem_cons_self
    constructor
    · intro j
      rw [List.foldl_cons, h1]
      simp only [drawCell, Display.cell_flip _ hk', List.mem_cons]
      by_cases e : j = k
      · subst e; simp [hk]
      · simp [e]
    · rw [List.foldl_cons, h2]
      have : ks.any (drawCell a k).1.cell = ks.any a.1.cell := by
        rw [Bool.eq_iff_iff, List.any_eq_true, List.any_eq_true]
        refine ⟨fun ⟨q, hq, c⟩ => ⟨q, hq, ?_⟩, fun ⟨q, hq, c⟩ => ⟨q, hq, ?_⟩⟩ <;>
        · have : q ≠ k := fun e => hk (e ▸ hq)
          simpa [drawCell, Display.cell_flip _ hk', this] using c
      rw [this]
      simp [drawCell, Bool.or_assoc]

/-- `(r, c)` is a set bit of the sprite exactly if row `r` exists and has bit `7 - c`. -/
theorem mem_pixelsFrom {rows : List Byte} {r0 : Nat} {p : Nat × Nat} : p ∈ pixelsFrom r0 rows ↔
    r0 ≤ p.1 ∧ p.2 ≤ 7 ∧ ∃ row, rows[p.1 - r0]? = some row ∧ row.getLsbD (7 - p.2) = true := by
  induction rows generalizing r0 with
  | nil => simp [pixelsFrom]
  | cons row rows ih =>
    obtain ⟨r, c⟩ := p
    simp only [pixelsFrom, List.mem_append, ih, rowPixels, List.mem_map, List.mem_filter, List.mem_range, Prod.mk.injEq]
    by_cases e : r = r0
    · subst e
      simp only [true_and, Nat.le_refl, Nat.sub_self, List.getElem?_cons_zero, Option.some.injEq]
      constructor
      · rintro (⟨_, ⟨h1, h2⟩, rfl⟩ | ⟨h, _⟩)
        · exact ⟨by omega, row, rfl, h2⟩
        · omega
      · rintro ⟨h1, _, rfl, h2⟩
        exact .inl ⟨c, ⟨by omega, h2⟩, rfl⟩
    · constructor
      · rintro (⟨_, _, h, _⟩ | ⟨h1, h2, q, h3, h4⟩)
        · exact absurd h.symm e
        · exact ⟨by omega, h2, q, by rw [show r - r0 = (r - (r0 + 1)) + 1 by omega, List.getElem?_cons_succ]; exact h3, h4⟩
      · rintro ⟨h1, h2, q, h3, h4⟩
        rw [show r - r0 = (r - (r0 + 1)) + 1 by omega, List.getElem?_cons_succ] at h3
        exact .inr ⟨by omega, h2, q, h3, h4⟩

theorem pixelsFrom_nodup (rows : List Byte) (r0 : Nat) : (pixelsFrom r0 rows).Nodup := by
  induction rows generalizing r0 with
  | nil => exact List.nodup_nil
  | cons row rows ih =>
    refine List.nodup_append.2 ⟨?_, ih _, ?_⟩
    · exact (List.nodup_range.filter _).map fun a b h => (Prod.mk.inj h).2
    · rintro a ha b hb rfl
      have h1 := (mem_pixelsFrom.1 hb).1
      simp only [rowPixels, List.mem_map] at ha
      obtain ⟨c, _, rfl⟩ := ha
      simp at h1

/-! ## Where the bits land -/

theorem mem_spriteCells {mode : DrawEdgeMode} {x0 y0 k : Nat} {rows : List Byte} :
    k ∈ spriteCells mode x0 y0 rows ↔ ∃ p ∈ pixelsFrom 0 rows, cellIndex mode x0 y0 p = some k := List.mem_filterMap

/-- In every edge mode a cell drawn lies in the buffer. -/
theorem cellIndex_inside {mode : DrawEdgeMode} {x0 y0 k : Nat} {p : Nat × Nat} (h : cellIndex mode x0 y0 p = some k) :
    k ≤ 2047 := by
  cases mode <;>
    simp only [cellIndex, Option.ite_none_right_eq_some, Option.ite_none_left_eq_some, Option.some.injEq] at h
  · omega
  · omega
  · unfold linearIndex at h; omega

/-- In every edge mode two bits of one sprite never land on one cell. -/
theorem cellIndex_injective {mode : DrawEdgeMode} {x0 y0 k : Nat} {p q : Nat × Nat} (hp : p.1 < 32 ∧ p.2 ≤ 7)
    (hq : q.1 < 32 ∧ q.2 ≤ 7) (h1 : cellIndex mode x0 y0 p = some k) (h2 : cellIndex mode x0 y0 q = some k) : p = q := by
  apply Prod.ext <;> cases mode <;>
    simp only [cellIndex, Option.ite_none_right_eq_some, Option.ite_none_left_eq_some, Option.some.injEq] at h1 h2 <;>
    (try unfold linearIndex at h1 h2) <;> omega

theorem spriteCells_nodup {mode : DrawEdgeMode} {x0 y0 : Nat} {rows : List Byte} (hr : rows.length ≤ 32) :
    (spriteCells mode x0 y0 rows).Nodup := by
  have bound : ∀ p ∈ pixelsFrom 0 rows, p.1 < 32 ∧ p.2 ≤ 7 := by
    intro p hp
    obtain ⟨-, h2, row, h3, -⟩ := mem_pixelsFrom.1 hp
    have := (List.getElem?_eq_some_iff.1 h3).1
    exact ⟨by omega, h2⟩
  have once := pixelsFrom_nodup rows 0
  unfold spriteCells
  generalize pixelsFrom 0 rows = l at *
  induction l with
  | nil => exact List.nodup_nil
  | cons p l ih =>
    obtain ⟨hp, hl⟩ := List.nodup_cons.1 once
    have ih := ih (fun q hq => bound q (List.mem_cons_of_mem _ hq)) hl
    cases e : cellIndex mode x0 y0 p with
    | none => rw [List.filterMap_cons_none e]; exact ih
    | some k =>
      rw [List.filterMap_cons_some e]
      refine List.nodup_cons.2 ⟨fun hk => ?_, ih⟩
      obtain ⟨q, hq, e2⟩ := List.mem_filterMap.1 hk
      exact hp (cellIndex_injective (bound p List.mem_cons_self) (bound q (List.mem_cons_of_mem _ hq)) e e2 ▸ hq)

/-- DISPLAY_OOB is reported exactly in linear mode, when some set bit maps above 2047. -/
theorem displayFault_eq_none {mode : DrawEdgeMode} {x0 y0 : Nat} {rows : List Byte} :
    displayFault mode x0 y0 rows = none ↔ (mode = .linear → ∀ p ∈ pixelsFrom 0 rows, linearIndex x0 y0 p ≤ 2047) := by
  cases mode <;> simp [displayFault]

theorem displayFault_cause {mode : DrawEdgeMode} {x0 y0 : Nat} {rows : List Byte} {r : FaultReport}
    (h : displayFault mode x0 y0 rows = some r) : r.cause = .displayOob := by
  cases mode <;> simp only [displayFault, Option.map_eq_some_iff, reduceCtorEq] at h
  obtain ⟨_, _, rfl⟩ := h; rfl

end Sys2Proof.Machine
end

