-- ==== Sys2Proof/Laws/Engine.lean ====
section
/-! SUPPORT. The phases around the instruction: what phase T, phase K, the fetch, the wake-up and IDLE can do. -/

namespace Sys2Proof.Machine

variable (s : State)

/-- The clear form of phase T (R122): `if tick_due = 1 then Tick()`. -/
theorem State.phaseT_eq_tick : s.phaseT = if s.input.tickDue then s.tick else s := by
  unfold State.phaseT State.tick tickIf
  cases s.input.tickDue <;> by_cases h1 : s.dt = 0 <;> by_cases h2 : s.st = 0 <;> simp [h1, h2] <;> cases s <;> simp_all

/-- One tick counts a timer down by one, floored at 0. -/
theorem tickIf_toNat (due : Bool) (c : Byte) : (tickIf due c).toNat = c.toNat - (if due then 1 else 0) := by
  unfold tickIf
  by_cases h : c = 0#8
  · simp [h]
  · have : c.toNat ≠ 0 := fun q => h (by apply BitVec.eq_of_toNat_eq; simpa using q)
    cases due
    · simp [h]
    · have := c.isLt
      simp only [h, if_true, if_false, BitVec.toNat_sub, BitVec.toNat_ofNat, BitVec.ofNat_eq_ofNat]
      omega

/-- Phase K changes the keys and, at a `Quit`, the run state; nothing else. -/
theorem State.takeEvents_eq (es : List HostEvent) :
    ∃ k, s.takeEvents es = { s with key := k, runState := if HostEvent.quit ∈ es then .stopped else s.runState } := by
  induction es generalizing s with
  | nil => exact ⟨s.key, rfl⟩
  | cons e es ih =>
    cases e with
    | keyDown k => obtain ⟨q, h⟩ := ih (s.setKey k true); exact ⟨q, by rw [State.takeEvents, h]; simp [State.setKey]⟩
    | keyUp k => obtain ⟨q, h⟩ := ih (s.setKey k false); exact ⟨q, by rw [State.takeEvents, h]; simp [State.setKey]⟩
    | quit => exact ⟨s.key, by simp [State.takeEvents, State.setRun]⟩

/-- Phase K takes every event that has arrived: the queue is empty behind it. -/
theorem State.phaseK_eq : ∃ k, s.phaseK =
    { s with key := k, pending := [], runState := if HostEvent.quit ∈ s.arrived then .stopped else s.runState } := by
  obtain ⟨k, h⟩ := (s.setPending []).takeEvents_eq s.arrived
  exact ⟨k, h⟩

/-- The fetch reads the two bytes at `pc`, and faults exactly when `pc + 1` lies above 0xFFF. -/
theorem State.fetch_ok {w : Word} : s.fetch = .ok w ↔
    (s.pc.toNat + 1 ≤ 0xFFF ∧ w = wordOfBytes (s.byteAt s.pc.toNat) (s.byteAt (s.pc.toNat + 1))) := by
  unfold State.fetch
  split
  · simp; omega
  · simp only [Except.ok.injEq, eq_comm (a := w)]
    constructor
    · exact fun q => ⟨by omega, q⟩
    · exact fun q => q.2

theorem State.fetch_error {r : FaultReport} : s.fetch = .error r ↔
    (0xFFF < s.pc.toNat + 1 ∧ r = ⟨.fetchOob, s.pc.toNat⟩) := by
  unfold State.fetch
  split
  · simp only [Except.error.injEq, eq_comm (a := r)]
    constructor
    · exact fun q => ⟨by omega, q⟩
    · exact fun q => q.2
  · simp; omega

/-- The end of a slot: a faulted slot keeps its `IR` and gives no pulse; another takes the word, and pulses after a `Dxyn`. -/
theorem State.retire_faulted (w : Word) (h : s.runState = .faulted) : s.retire w = { s with frameReady := false } := by
  simp [State.retire, State.latch, State.phaseP, h]

theorem State.retire_of_not_faulted (w : Word) (h : s.runState ≠ .faulted) :
    s.retire w = { s with ir := w, frameReady := fieldGroup w == 0xD } := by
  simp [State.retire, State.latch, State.phaseP, h]

/-- The load port writes memory, by the memory and the loads alone, and nothing else. -/
theorem State.loads_eq_put (ls : List (Addr × Byte)) :
    ls.foldl (fun t l => t.storeByte l.1.toNat l.2) s =
      { s with mem := ls.foldl (fun m l => m.put s.cfg.font l.1.toNat l.2) s.mem } := by
  induction ls generalizing s with
  | nil => rfl
  | cons l ls ih => rw [List.foldl_cons, ih]; rfl

theorem State.loads_eq (ls : List (Addr × Byte)) :
    ∃ m, ls.foldl (fun t l => t.storeByte l.1.toNat l.2) s = { s with mem := m } := ⟨_, s.loads_eq_put ls⟩

/-- What a step in IDLE leaves: the loads in memory, `start` honoured, the queue empty. -/
theorem State.idle_eq : s.idle =
    { s with
      mem := s.input.loads.foldl (fun m l => m.put s.cfg.font l.1.toNat l.2) s.mem, pending := [],
      runState := if s.input.start then .running else s.runState } := by
  unfold State.idle
  rw [State.loads_eq_put]
  cases s.input.start <;> rfl

theorem State.loads_wf (ls : List (Addr × Byte)) (h : Memory.wf s.cfg.font s.mem) :
    Memory.wf s.cfg.font (ls.foldl (fun t l => t.storeByte l.1.toNat l.2) s).mem := by
  induction ls generalizing s with
  | nil => exact h
  | cons l ls ih => exact ih (s.storeByte l.1.toNat l.2) (State.storeByte_wf s h)

/-- What an outcome passed on answers: exactly a next state of the outcome, passed on. -/
theorem onNext_eq_next {o : Outcome} {f : State → State} {t : State} :
    onNext o f = .next t ↔ ∃ u, o = .next u ∧ t = f u := by
  cases o <;> simp [onNext, eq_comm]

end Sys2Proof.Machine
end

