-- ==== Sys2Proof/Laws/Frames.lean ====
section
/-! SUPPORT. The shared operations in the terms that claims use: what each leaves unchanged, and what a `Dxyn` touches. -/

namespace Sys2Proof.Machine

variable (s : State)

/-! ## Frames -/

theorem UnchangedBut.mono {l l' : List Part} {s t : State} (h : UnchangedBut l s t) (sub : ∀ p ∈ l, p ∈ l') :
    UnchangedBut l' s t := fun p hp => h p fun q => hp (sub p q)

theorem Part.same_trans {p : Part} {s t u : State} (h1 : p.same s t) (h2 : p.same t u) : p.same s u := by
  cases p <;> first | exact h2.trans h1 | exact fun a => (h2 a).trans (h1 a)

/-- A register write is `OnlyReg`. -/
theorem onlyReg_setReg (x : Reg) (b : Byte) : OnlyReg x b s (s.setReg x b) := by
  refine ⟨by simp, fun r hr => s.reg_setReg_other b hr, fun p hp => ?_⟩
  cases p <;> first | exact absurd List.mem_cons_self hp | rfl | exact fun _ => rfl

/-- The operand of a second statement (R170). -/
theorem State.reg_behind_flag (f : Bool) (r : Reg) : (s.setReg VF (flagByte f)).reg r = s.regBehindFlag f r := by
  simp [State.reg_setReg, State.regBehindFlag, flagByte]

/-- The shape of the five flag-writing register instructions is `FlagAndReg`. -/
theorem flagAndReg_flagThen (f : Bool) (x : Reg) (result : State → Byte) :
    FlagAndReg f x (result (s.setReg VF (flagByte f))) s (s.flagThen f x result) := by
  refine ⟨by simp [State.reg_flagThen], fun h => by simp [State.reg_flagThen, Ne.symm h, flagByte],
    fun r h1 h2 => by simp [State.reg_flagThen, h1, h2], fun p hp => ?_⟩
  cases p <;> first | exact absurd List.mem_cons_self hp | rfl | exact fun _ => rfl

/-- Raising a fault is `FaultedFrom` the instruction's own address. -/
theorem faultedFrom_raise (r : FaultReport) : FaultedFrom r.cause (s.pc - 2) s (s.raise r) := by
  refine ⟨rfl, rfl, rfl, rfl, fun p hp => ?_⟩
  cases p <;> first | exact absurd (by decide) hp | rfl | exact fun _ => rfl

theorem unchangedBut_skipIf (c : Bool) : UnchangedBut [.pc] s (s.skipIf c) := by
  rw [State.skipIf_eq]
  intro p hp; cases p <;> first | exact absurd List.mem_cons_self hp | rfl | exact fun _ => rfl

theorem unchangedBut_storeRegs (n : Nat) : UnchangedBut [.mem] s (s.storeRegs n) := by
  obtain ⟨m, h⟩ := s.storeRegs_eq n
  rw [h]
  intro p hp; cases p <;> first | exact absurd List.mem_cons_self hp | rfl | exact fun _ => rfl

theorem unchangedBut_loadRegs (n : Nat) : UnchangedBut [.regs] s (s.loadRegs n) := by
  obtain ⟨v, h⟩ := s.loadRegs_eq n
  rw [h]
  intro p hp; cases p <;> first | exact absurd List.mem_cons_self hp | rfl | exact fun _ => rfl

/-! ## What a `Dxyn` touches -/

theorem mem_pixelsFrom_spriteRows {n : Nat} {p : Nat × Nat} :
    p ∈ pixelsFrom 0 (s.spriteRows n) ↔ s.spriteBit n p.1 p.2 := by
  rw [mem_pixelsFrom]
  unfold State.spriteRows State.spriteBit State.dataAddr
  simp only [List.getElem?_map, Nat.sub_zero, Option.map_eq_some_iff, List.getElem?_eq_some_iff, List.length_range,
    List.getElem_range]
  constructor
  · rintro ⟨-, h, _, ⟨_, ⟨h1, rfl⟩, rfl⟩, h2⟩; exact ⟨h1, by omega, h2⟩
  · rintro ⟨h1, h2, h3⟩; exact ⟨by omega, by omega, _, ⟨_, ⟨h1, rfl⟩, rfl⟩, h3⟩

theorem cellIndex_eq_some {mode : DrawEdgeMode} {x0 y0 k : Nat} {p : Nat × Nat} :
    cellIndex mode x0 y0 p = some k ↔ LandsOn mode x0 y0 p.1 p.2 k ∧ (mode = .linear → k ≤ 2047) := by
  cases mode <;> simp only [cellIndex, LandsOn]
  · rw [Option.ite_none_right_eq_some]; unfold linearIndex; simp; omega
  · simp; omega
  · rw [Option.ite_none_left_eq_some]; unfold linearIndex; simp; omega

variable {s} {x y : Reg} {n : BitVec 4}

theorem mem_drawnCells {k : Nat} :
    k ∈ s.drawnCells x y n ↔ s.touches x y n k ∧ (s.cfg.drawEdgeMode = .linear → k ≤ 2047) := by
  unfold State.drawnCells State.touches
  rw [mem_spriteCells]
  constructor
  · rintro ⟨p, hp, h⟩
    obtain ⟨h1, h2⟩ := cellIndex_eq_some.1 h
    exact ⟨⟨_, _, (mem_pixelsFrom_spriteRows s).1 hp, h1⟩, h2⟩
  · rintro ⟨⟨r, c, h1, h2⟩, h3⟩
    exact ⟨(r, c), (mem_pixelsFrom_spriteRows s).2 h1, cellIndex_eq_some.2 ⟨h2, h3⟩⟩

theorem mem_drawnCells_of_drawable {k : Nat} (h : s.drawable x y n) : k ∈ s.drawnCells x y n ↔ s.touches x y n k := by
  rw [mem_drawnCells]
  exact ⟨fun q => q.1, fun q => ⟨q, fun m => h.2 m k q⟩⟩

theorem drawnCells_nodup : (s.drawnCells x y n).Nodup :=
  spriteCells_nodup (by simp [State.spriteRows]; have := n.isLt; omega)

theorem drawnCells_inside : ∀ k ∈ s.drawnCells x y n, k ≤ 2047 := by
  intro k hk
  obtain ⟨p, _, h⟩ := mem_spriteCells.1 hk
  exact cellIndex_inside h

theorem displayFault_eq_none_iff_touches :
    displayFault s.cfg.drawEdgeMode (s.originX x) (s.originY y) (s.spriteRows n.toNat) = none ↔
      (s.cfg.drawEdgeMode = .linear → ∀ k, s.touches x y n k → k ≤ 2047) := by
  rw [displayFault_eq_none]
  constructor
  · rintro h m k ⟨r, c, h1, h2⟩
    have := h m (r, c) ((mem_pixelsFrom_spriteRows s).2 h1)
    rw [m] at h2
    simp only [LandsOn] at h2
    unfold linearIndex State.originX State.originY at this
    simp only at this; omega
  · rintro h m p hp
    refine h m _ ⟨p.1, p.2, (mem_pixelsFrom_spriteRows s).1 hp, ?_⟩
    rw [m]; rfl

/-- A `Dxyn` has no fault exactly when its sprite is drawable. -/
theorem drawFault_eq_none : s.drawFault x y n = none ↔ s.drawable x y n := by
  unfold State.drawFault State.drawable
  rw [← displayFault_eq_none_iff_touches]
  have e : (n = 0 ∨ s.index.toNat + n.toNat ≤ 0x1000) ↔ s.dataFault n.toNat = none := by
    rw [State.dataFault_eq_none]
    have : n = 0 ↔ n.toNat = 0 := by
      constructor <;> intro h
      · simp [h]
      · exact BitVec.eq_of_toNat_eq (by simpa using h)
    rw [this]
  rw [e]
  cases s.dataFault n.toNat <;> simp

end Sys2Proof.Machine
end

