-- ==== Sys2Proof/Laws/PerInstr.lean ====
section
/-! SUPPORT. What holds of every instruction as syntax, one lemma per constructor. -/

namespace Sys2Proof.Laws

open Sys2Proof

/-! ## The mask of a word, as arithmetic -/

theorem toNat_and_group (w : Word) : (w &&& 0xF000).toNat = w.toNat / 4096 * 4096 := by
  have e : w &&& 0xF000 = BitVec.ofNat 16 (w.toNat / 4096 * 4096) := by
    apply BitVec.eq_of_getLsbD_eq; intro i hi
    have m : ∀ i < 16, (0xF000 : Word).getLsbD i = decide (12 ≤ i) := by decide
    rw [BitVec.getLsbD_and, m i hi, BitVec.getLsbD_ofNat, show 4096 = 2 ^ 12 from rfl, Nat.testBit_mul_two_pow]
    by_cases h : 12 ≤ i
    · simp only [h, hi, decide_true, Bool.and_true, Bool.true_and, BitVec.getLsbD]
      rw [Nat.testBit_div_two_pow]; congr 1; omega
    · simp [h]
  have := w.isLt
  rw [e, BitVec.toNat_ofNat]; omega

theorem and_split (w a b : Word) (h : a &&& b = 0) : (w &&& (a ||| b)).toNat = (w &&& a).toNat + (w &&& b).toNat := by
  rw [show w &&& (a ||| b) = (w &&& a) ||| (w &&& b) by
    apply BitVec.eq_of_getLsbD_eq; intro i _
    simp only [BitVec.getLsbD_and, BitVec.getLsbD_or]
    cases w.getLsbD i <;> simp]
  rw [← BitVec.toNat_add_of_and_eq_zero]
  · congr 1
    rw [BitVec.add_eq_or_of_and_eq_zero]
    apply BitVec.eq_of_getLsbD_eq; intro i _
    have := congrArg (BitVec.getLsbD · i) h
    simp only [BitVec.getLsbD_and, BitVec.getLsbD_zero] at this ⊢
    cases w.getLsbD i <;> simp_all
  · apply BitVec.eq_of_getLsbD_eq; intro i _
    have := congrArg (BitVec.getLsbD · i) h
    simp only [BitVec.getLsbD_and, BitVec.getLsbD_zero] at this ⊢
    cases w.getLsbD i <;> simp_all

theorem toNat_and_low (w : Word) {k : Nat} (hk : k ≤ 16) : (w &&& BitVec.ofNat 16 (2 ^ k - 1)).toNat = w.toNat % 2 ^ k := by
  have : 2 ^ k ≤ 2 ^ 16 := Nat.pow_le_pow_right (by omega) hk
  have : 0 < 2 ^ k := Nat.two_pow_pos k
  rw [BitVec.toNat_and, BitVec.toNat_ofNat, Nat.mod_eq_of_lt (by omega), Nat.and_two_pow_sub_one_eq_mod]

theorem toNat_and_group_n (w : Word) : (w &&& 0xF00F).toNat = w.toNat / 4096 * 4096 + w.toNat % 16 := by
  rw [show (0xF00F : Word) = 0xF000 ||| 0x000F by decide, and_split w _ _ (by decide), toNat_and_group]
  exact congrArg _ (toNat_and_low w (k := 4) (by omega))

theorem toNat_and_group_nn (w : Word) : (w &&& 0xF0FF).toNat = w.toNat / 4096 * 4096 + w.toNat % 256 := by
  rw [show (0xF0FF : Word) = 0xF000 ||| 0x00FF by decide, and_split w _ _ (by decide), toNat_and_group]
  exact congrArg _ (toNat_and_low w (k := 8) (by omega))

variable {g : Nat} (hg : g < 16) (x y : Reg) (n : BitVec 4) (nn : Byte) (nnn : Addr)
include hg

theorem wordNNN_group : wordNNN g nnn &&& 0xF000 = BitVec.ofNat 16 (g * 4096) := by
  apply BitVec.eq_of_toNat_eq
  have := nnn.isLt; rw [toNat_and_group, wordNNN_toNat hg, BitVec.toNat_ofNat]; omega

theorem wordXNN_group : wordXNN g x nn &&& 0xF000 = BitVec.ofNat 16 (g * 4096) := by
  apply BitVec.eq_of_toNat_eq
  have := nn.isLt; have := x.isLt; rw [toNat_and_group, wordXNN_toNat hg, BitVec.toNat_ofNat]; omega

theorem wordXYN_group : wordXYN g x y n &&& 0xF000 = BitVec.ofNat 16 (g * 4096) := by
  apply BitVec.eq_of_toNat_eq
  have := n.isLt; have := x.isLt; have := y.isLt
  rw [toNat_and_group, wordXYN_toNat hg, BitVec.toNat_ofNat]; omega

theorem wordXNN_group_nn : wordXNN g x nn &&& 0xF0FF = BitVec.ofNat 16 (g * 4096 + nn.toNat) := by
  apply BitVec.eq_of_toNat_eq
  have := nn.isLt; have := x.isLt; rw [toNat_and_group_nn, wordXNN_toNat hg, BitVec.toNat_ofNat]; omega

theorem wordXYN_group_n : wordXYN g x y n &&& 0xF00F = BitVec.ofNat 16 (g * 4096 + n.toNat) := by
  apply BitVec.eq_of_toNat_eq
  have := n.isLt; have := x.isLt; have := y.isLt
  rw [toNat_and_group_n, wordXYN_toNat hg, BitVec.toNat_ofNat]; omega

omit hg

/-! ## The word of an instruction fits its own row of the opcode map (R94, R96) -/

/-- The word's bits under the row's mask are the row's match value. -/
def WordFitsRow.Statement (i : Instr) : Prop := encode i &&& i.mask = i.pattern

theorem WordFitsRow.cls : WordFitsRow.Statement .cls := by unfold WordFitsRow.Statement; decide
theorem WordFitsRow.ret : WordFitsRow.Statement .ret := by unfold WordFitsRow.Statement; decide
theorem WordFitsRow.nop0 (nnn : Addr) : WordFitsRow.Statement (.nop0 nnn) := wordNNN_group (by omega) nnn
theorem WordFitsRow.jp (nnn : Addr) : WordFitsRow.Statement (.jp nnn) := wordNNN_group (by omega) nnn
theorem WordFitsRow.call (nnn : Addr) : WordFitsRow.Statement (.call nnn) := wordNNN_group (by omega) nnn
theorem WordFitsRow.seImm (x : Reg) (nn : Byte) : WordFitsRow.Statement (.seImm x nn) := wordXNN_group (by omega) x nn
theorem WordFitsRow.sneImm (x : Reg) (nn : Byte) : WordFitsRow.Statement (.sneImm x nn) := wordXNN_group (by omega) x nn
theorem WordFitsRow.seReg (x y : Reg) (n : BitVec 4) : WordFitsRow.Statement (.seReg x y n) := wordXYN_group (by omega) x y n
theorem WordFitsRow.ldImm (x : Reg) (nn : Byte) : WordFitsRow.Statement (.ldImm x nn) := wordXNN_group (by omega) x nn
theorem WordFitsRow.addImm (x : Reg) (nn : Byte) : WordFitsRow.Statement (.addImm x nn) := wordXNN_group (by omega) x nn
theorem WordFitsRow.ldReg (x y : Reg) : WordFitsRow.Statement (.ldReg x y) := wordXYN_group_n (by omega) x y _
theorem WordFitsRow.orReg (x y : Reg) : WordFitsRow.Statement (.orReg x y) := wordXYN_group_n (by omega) x y _
theorem WordFitsRow.andReg (x y : Reg) : WordFitsRow.Statement (.andReg x y) := wordXYN_group_n (by omega) x y _
theorem WordFitsRow.xorReg (x y : Reg) : WordFitsRow.Statement (.xorReg x y) := wordXYN_group_n (by omega) x y _
theorem WordFitsRow.addReg (x y : Reg) : WordFitsRow.Statement (.addReg x y) := wordXYN_group_n (by omega) x y _
theorem WordFitsRow.sub (x y : Reg) : WordFitsRow.Statement (.sub x y) := wordXYN_group_n (by omega) x y _
theorem WordFitsRow.shr (x y : Reg) : WordFitsRow.Statement (.shr x y) := wordXYN_group_n (by omega) x y _
theorem WordFitsRow.subn (x y : Reg) : WordFitsRow.Statement (.subn x y) := wordXYN_group_n (by omega) x y _
theorem WordFitsRow.shl (x y : Reg) : WordFitsRow.Statement (.shl x y) := wordXYN_group_n (by omega) x y _
theorem WordFitsRow.nop8 (x y : Reg) (n : BitVec 4) : WordFitsRow.Statement (.nop8 x y n) := wordXYN_group (by omega) x y n
theorem WordFitsRow.sneReg (x y : Reg) (n : BitVec 4) : WordFitsRow.Statement (.sneReg x y n) := wordXYN_group (by omega) x y n
theorem WordFitsRow.ldI (nnn : Addr) : WordFitsRow.Statement (.ldI nnn) := wordNNN_group (by omega) nnn
theorem WordFitsRow.jpV0 (nnn : Addr) : WordFitsRow.Statement (.jpV0 nnn) := wordNNN_group (by omega) nnn
theorem WordFitsRow.rnd (x : Reg) (nn : Byte) : WordFitsRow.Statement (.rnd x nn) := wordXNN_group (by omega) x nn
theorem WordFitsRow.drw (x y : Reg) (n : BitVec 4) : WordFitsRow.Statement (.drw x y n) := wordXYN_group (by omega) x y n
theorem WordFitsRow.skp (x : Reg) : WordFitsRow.Statement (.skp x) := wordXNN_group_nn (by omega) x _
theorem WordFitsRow.sknp (x : Reg) : WordFitsRow.Statement (.sknp x) := wordXNN_group_nn (by omega) x _
theorem WordFitsRow.nopE (x : Reg) (nn : Byte) : WordFitsRow.Statement (.nopE x nn) := wordXNN_group (by omega) x nn
theorem WordFitsRow.ldVxDt (x : Reg) : WordFitsRow.Statement (.ldVxDt x) := wordXNN_group_nn (by omega) x _
theorem WordFitsRow.ldVxK (x : Reg) : WordFitsRow.Statement (.ldVxK x) := wordXNN_group_nn (by omega) x _
theorem WordFitsRow.ldDtVx (x : Reg) : WordFitsRow.Statement (.ldDtVx x) := wordXNN_group_nn (by omega) x _
theorem WordFitsRow.ldStVx (x : Reg) : WordFitsRow.Statement (.ldStVx x) := wordXNN_group_nn (by omega) x _
theorem WordFitsRow.addI (x : Reg) : WordFitsRow.Statement (.addI x) := wordXNN_group_nn (by omega) x _
theorem WordFitsRow.ldF (x : Reg) : WordFitsRow.Statement (.ldF x) := wordXNN_group_nn (by omega) x _
theorem WordFitsRow.ldB (x : Reg) : WordFitsRow.Statement (.ldB x) := wordXNN_group_nn (by omega) x _
theorem WordFitsRow.stRegs (x : Reg) : WordFitsRow.Statement (.stRegs x) := wordXNN_group_nn (by omega) x _
theorem WordFitsRow.ldRegs (x : Reg) : WordFitsRow.Statement (.ldRegs x) := wordXNN_group_nn (by omega) x _
theorem WordFitsRow.nopF (x : Reg) (nn : Byte) : WordFitsRow.Statement (.nopF x nn) := wordXNN_group (by omega) x nn

end Sys2Proof.Laws
end

