-- ==== Sys2Proof/Laws/Step.lean ====
section
/-! SUPPORT. What one step does, case by case: later proofs cite these and never unfold `step`. -/

namespace Sys2Proof.Machine

variable (s : State)

/-! ## The step in each run state -/

theorem step_of_reset (h : s.input.reset = true) : step s = .next s.assertReset.endStep := by
  simp only [step, State.turn, State.beginStep_input, h, if_true]; rfl

theorem step_of_idle (h : s.input.reset = false) (r : s.runState = .idle) : step s = .next s.beginStep.idle.endStep := by
  simp only [step, State.turn, State.beginStep_input, h, Bool.false_eq_true, if_false]
  rw [show s.beginStep.runState = _ from r]; rfl

theorem step_of_waitKey (h : s.input.reset = false) (r : s.runState = .waitKey) :
    step s = .next s.beginStep.wake.endStep := by
  simp only [step, State.turn, State.beginStep_input, h, Bool.false_eq_true, if_false]
  rw [show s.beginStep.runState = _ from r]; rfl

theorem step_of_halted (h : s.input.reset = false) (r : s.runState = .faulted ∨ s.runState = .stopped) :
    step s = .next s.beginStep.halted.endStep := by
  simp only [step, State.turn, State.beginStep_input, h, Bool.false_eq_true, if_false]
  rcases r with r | r <;> rw [show s.beginStep.runState = _ from r] <;> rfl

theorem step_of_running (h : s.input.reset = false) (r : s.runState = .running) :
    step s = onNext s.beginStep.slot State.endStep := by
  simp only [step, State.turn, State.beginStep_input, h, Bool.false_eq_true, if_false]
  rw [show s.beginStep.runState = _ from r]

/-- A step that takes a slot runs it. -/
theorem step_of_takesSlot (h : s.takesSlot) : step s = onNext s.beginStep.slot State.endStep := step_of_running s h.2 h.1

/-- A run whose slots are over has fair ticks: R247 (c) speaks of infinitely many slots only. -/
theorem ticksFair_of_no_slot {run : Nat → State} {n : Nat} (h : ∀ m, n ≤ m → ¬ (run m).takesSlot) : TicksFair run := by
  intro slots
  obtain ⟨m, hm, hs⟩ := slots n
  exact absurd hs (h m hm)

/-! ## Inside a slot -/

/-- Behind phases T and K: the timers have counted, the keys follow the events, nothing is queued, a `Quit` has stopped. -/
theorem State.behindTK_eq : ∃ k, s.behindTK =
    { s with
      dt := tickIf s.input.tickDue s.dt, st := tickIf s.input.tickDue s.st, key := k, pending := [], frameReady := false,
      runState := if HostEvent.quit ∈ s.arrived then .stopped else s.runState } := by
  obtain ⟨k, h⟩ := s.beginStep.phaseT.phaseK_eq
  exact ⟨k, h⟩

theorem State.behindTK_running (r : s.runState = .running) (q : s.quitFree) : s.behindTK.runState = .running := by
  obtain ⟨k, h⟩ := s.behindTK_eq
  rw [h]; simp only [if_neg q, r]

theorem State.behindTK_pc : s.behindTK.pc = s.pc := by obtain ⟨k, h⟩ := s.behindTK_eq; rw [h]

theorem State.behindTK_byteAt (a : Nat) : s.behindTK.byteAt a = s.byteAt a := by
  obtain ⟨k, h⟩ := s.behindTK_eq; rw [h]; rfl

/-- A `Quit` taken in phase K ends the slot there. -/
theorem step_of_quit (h : s.input.reset = false) (r : s.runState = .running) (q : HostEvent.quit ∈ s.arrived) :
    step s = .next s.behindTK.endStep := by
  have stopped : s.behindTK.runState = .stopped := by
    obtain ⟨k, h⟩ := s.behindTK_eq; rw [h]; simp only [if_pos q]
  rw [step_of_running s h r]
  unfold State.slot
  change onNext (if s.behindTK.runState = .running then s.behindTK.phaseX else .next s.behindTK) _ = _
  rw [stopped]; rfl

theorem step_of_slot (h : s.input.reset = false) (r : s.runState = .running) (q : s.quitFree) :
    step s = onNext s.behindTK.phaseX State.endStep := by
  rw [step_of_running s h r]
  unfold State.slot
  change onNext (if s.behindTK.runState = .running then s.behindTK.phaseX else .next s.behindTK) _ = _
  rw [s.behindTK_running r q]; rfl

/-- Phase X where nothing can be fetched. -/
theorem State.phaseX_fetchOob (p : s.pc.toNat ≥ 0xFFF) : s.phaseX = .next (s.raiseAt s.pc ⟨.fetchOob, s.pc.toNat⟩) := by
  unfold State.phaseX
  rw [(State.fetch_error _).2 ⟨by omega, rfl⟩]

/-- Phase X on a word that decodes. -/
theorem State.phaseX_instr {i : Instr} (p : s.pc.toNat ≤ 0xFFE) (d : decodeWord s.wordAtPc = .ok i) :
    s.phaseX = onNext (exec i s.advance) fun t => t.retire s.wordAtPc := by
  unfold State.phaseX
  rw [(State.fetch_ok _).2 ⟨by omega, rfl⟩]
  change (match decodeWord s.wordAtPc with | .error _ => _ | .ok i => _) = _
  rw [d]; rfl

/-- Every word decodes (R96). -/
theorem decodeWord_total (w : Word) : ∃ i, decodeWord w = .ok i := by
  have h := fieldGroup_lt w
  unfold decodeWord
  generalize fieldGroup w = g at *
  interval_cases g <;> exact ⟨_, rfl⟩

end Sys2Proof.Machine
end

