-- ==== Sys2Proof/Tests/Slice0.lean ====
section
/-! SUPPORT. Tests on fixed values, every expected value from the spec (`95_test_vectors.md` and the rules' examples), and a witness for the
hypotheses of every obligation that has some. -/

namespace Sys2Proof.Tests

open Sys2Proof Sys2Proof.Machine

/-! ## Well-formedness: each check refuses an ill-formed term (R94) -/

theorem test_wf_refuses_nop0_cls : (Instr.nop0 0x0E0).wf = false := by decide
theorem test_wf_refuses_nop0_ret : (Instr.nop0 0x0EE).wf = false := by decide
theorem test_wf_refuses_nop8_add : (Instr.nop8 1 2 4).wf = false := by decide
theorem test_wf_refuses_nopE_skp : (Instr.nopE 1 0x9E).wf = false := by decide
theorem test_wf_refuses_nopF_addI : (Instr.nopF 1 0x1E).wf = false := by decide
theorem test_wf_takes_ignored_words :
    (Instr.nop0 0x1E0).wf = true ∧ (Instr.nop8 1 2 15).wf = true ∧ (Instr.nopE 1 0x00).wf = true ∧ (Instr.nopF 1 0xFF).wf = true := by
  decide

/-! ## Decoding: a word of every row, written out from the map of R94 and the examples of the rules -/

/-- R220 -/
theorem test_decode_cls : decodeTableWord 16 0x00E0 = some (.cls) := by decide
/-- R150 -/
theorem test_decode_ret : decodeTableWord 16 0x00EE = some (.ret) := by decide
/-- R260 -/
theorem test_decode_nop0 : decodeTableWord 16 0x0123 = some (.nop0 0x123) := by decide
/-- 95 §2.1 #1 -/
theorem test_decode_jp : decodeTableWord 16 0x1ABC = some (.jp 0xABC) := by decide
/-- R152 -/
theorem test_decode_call : decodeTableWord 16 0x2300 = some (.call 0x300) := by decide
/-- R154 -/
theorem test_decode_seImm : decodeTableWord 16 0x332A = some (.seImm 3 0x2A) := by decide
/-- R155 -/
theorem test_decode_sneImm : decodeTableWord 16 0x432B = some (.sneImm 3 0x2B) := by decide
/-- R156 -/
theorem test_decode_seReg : decodeTableWord 16 0x512F = some (.seReg 1 2 15) := by decide
/-- R171 -/
theorem test_decode_ldImm : decodeTableWord 16 0x6A2C = some (.ldImm 10 0x2C) := by decide
/-- R172 -/
theorem test_decode_addImm : decodeTableWord 16 0x7120 = some (.addImm 1 0x20) := by decide
/-- R173 -/
theorem test_decode_ldReg : decodeTableWord 16 0x8120 = some (.ldReg 1 2) := by decide
/-- R174 -/
theorem test_decode_orReg : decodeTableWord 16 0x8121 = some (.orReg 1 2) := by decide
/-- R175 -/
theorem test_decode_andReg : decodeTableWord 16 0x8122 = some (.andReg 1 2) := by decide
/-- R176 -/
theorem test_decode_xorReg : decodeTableWord 16 0x8123 = some (.xorReg 1 2) := by decide
/-- R177 -/
theorem test_decode_addReg : decodeTableWord 16 0x8F14 = some (.addReg 15 1) := by decide
/-- R178 -/
theorem test_decode_sub : decodeTableWord 16 0x81F5 = some (.sub 1 15) := by decide
/-- R179 -/
theorem test_decode_shr : decodeTableWord 16 0x8126 = some (.shr 1 2) := by decide
/-- R180 -/
theorem test_decode_subn : decodeTableWord 16 0x8F17 = some (.subn 15 1) := by decide
/-- R181 -/
theorem test_decode_shl : decodeTableWord 16 0x810E = some (.shl 1 0) := by decide
/-- R261 -/
theorem test_decode_nop8 : decodeTableWord 16 0x812F = some (.nop8 1 2 15) := by decide
/-- R157 -/
theorem test_decode_sneReg : decodeTableWord 16 0x9125 = some (.sneReg 1 2 5) := by decide
/-- R200 -/
theorem test_decode_ldI : decodeTableWord 16 0xA300 = some (.ldI 0x300) := by decide
/-- R153 -/
theorem test_decode_jpV0 : decodeTableWord 16 0xBFFF = some (.jpV0 0xFFF) := by decide
/-- R182 -/
theorem test_decode_rnd : decodeTableWord 16 0xC10F = some (.rnd 1 0x0F) := by decide
/-- R221 -/
theorem test_decode_drw : decodeTableWord 16 0xDD12 = some (.drw 13 1 2) := by decide
/-- R240 -/
theorem test_decode_skp : decodeTableWord 16 0xE19E = some (.skp 1) := by decide
/-- R241 -/
theorem test_decode_sknp : decodeTableWord 16 0xE1A1 = some (.sknp 1) := by decide
/-- R262 -/
theorem test_decode_nopE : decodeTableWord 16 0xE100 = some (.nopE 1 0x00) := by decide
/-- R243 -/
theorem test_decode_ldVxDt : decodeTableWord 16 0xF207 = some (.ldVxDt 2) := by decide
/-- R242 -/
theorem test_decode_ldVxK : decodeTableWord 16 0xF50A = some (.ldVxK 5) := by decide
/-- R244 -/
theorem test_decode_ldDtVx : decodeTableWord 16 0xF215 = some (.ldDtVx 2) := by decide
/-- R245 -/
theorem test_decode_ldStVx : decodeTableWord 16 0xF218 = some (.ldStVx 2) := by decide
/-- R201 -/
theorem test_decode_addI : decodeTableWord 16 0xF11E = some (.addI 1) := by decide
/-- R202 -/
theorem test_decode_ldF : decodeTableWord 16 0xF129 = some (.ldF 1) := by decide
/-- R203 -/
theorem test_decode_ldB : decodeTableWord 16 0xF133 = some (.ldB 1) := by decide
/-- R204 -/
theorem test_decode_stRegs : decodeTableWord 16 0xF355 = some (.stRegs 3) := by decide
/-- R205 -/
theorem test_decode_ldRegs : decodeTableWord 16 0xF265 = some (.ldRegs 2) := by decide
/-- R263 -/
theorem test_decode_nopF : decodeTableWord 16 0xF1FF = some (.nopF 1 0xFF) := by decide

/-- Fewer than two bytes are no instruction (R90). -/
theorem test_decode_truncated : decode [0x6A] = .error .truncated := rfl
/-- The high byte comes first in memory (R64), and what stands behind is left. -/
theorem test_decode_big_endian : decode [0x6A, 0x2C, 0x00] = .ok (.ldImm 10 0x2C, [0x00]) := rfl
theorem test_encode_big_endian : encodeBytes (.ldImm 10 0x2C) = [0x6A, 0x2C] := by decide

/-! ## The small states of the tests -/

/-- A step's inputs with nothing due. -/
def quiet : StepInput where
  reset := false
  loads := []
  start := false
  tickDue := false
  events := []
  rnd := 0

/-- `s` RUNNING, with the inputs `inp` for its next step. -/
def ready (inp : StepInput) (s : State) : State := { s with runState := .running, script := [inp] }

/-- The state after one slot with the inputs `inp` that runs the word `w` at `pc`. -/
def slotWith (inp : StepInput) (w : Nat) (s : State) : State :=
  match step ((ready inp s).withFetchWord 16 w) with
  | .next t => t
  | .fault r => nomatch r
  | .refused _ => s

/-- The state after one quiet slot that runs the word `w` at `pc`. -/
def slotOf (w : Nat) (s : State) : State := slotWith quiet w s

/-- The reset state with two registers set. -/
def regs2 (r : Reg) (a : Byte) (q : Reg) (b : Byte) : State := (State.reset.setReg r a).setReg q b

/-- The reset state with bytes in memory from `a` on. -/
def bytesAt (a : Nat) (bs : List Byte) (s : State) : State := bs.zipIdx.foldl (fun t b => t.storeByte (a + b.2) b.1) s

/-- The cells a display shows among the first `n` of a row from column `cx`, row `cy`. -/
def cells (s : State) (cx cy n : Nat) : List Bool := (List.range n).map fun c => s.disp.cell (cx + c + cy * 64)

/-! ## Behaviour: the vectors of `95_test_vectors.md`, part 2 -/

/-- §2.4 #1 -/
theorem test_cls : let s := slotOf 0x00E0 (slotOf 0xD011 ((bytesAt 0x300 [0xF0] (State.reset.setIndex 0x300)).setReg 15 1)); (cells s 0 0 8, s.frameReady) = (List.replicate 8 false, false) := by decide
/-- §2.1 #7 -/
theorem test_ret_observed : let s := slotOf 0x00EE { State.reset with sp := 1, stack := State.reset.stack.set 0 0x0ABC }; (s.sp, s.pc, s.stack[0]) = (0, 0x202, 0x0ABC) := by decide
/-- §2.1 #8 -/
theorem test_ret_restore : let s := slotOf 0x00EE { State.reset with sp := 1, stack := State.reset.stack.set 0 0x0ABC, cfg := { Config.default with retMode := .restorePc } }; (s.sp, s.pc) = (0, 0x0ABC) := by decide
/-- §2.6 #3 -/
theorem test_nop0_contested : let s := slotOf 0x01EE { State.reset with sp := 1 }; (s.sp, s.pc, s.ir) = (1, 0x202, 0x01EE) := by decide
/-- §2.1 #2 -/
theorem test_jp : (slotOf 0x1201 State.reset).pc = 0x201 := by decide
/-- §2.1 #5 -/
theorem test_call : let s := slotOf 0x2300 { State.reset with sp := 15 }; (s.stack[15], s.sp, s.pc) = (0x0202, 16, 0x300) := by decide
/-- §2.1 #6 -/
theorem test_call_overflow : let s := slotOf 0x2300 { State.reset with sp := 16 }; (s.runState, s.faultCause.code, s.faultPc, s.pc, s.sp, s.ir) = (.faulted, 2, 0x200, 0x200, 16, 0) := by decide
/-- §2.1 #13, #14 -/
theorem test_seImm : ((slotOf 0x332A (State.reset.setReg 3 0x2A)).pc, (slotOf 0x332B (State.reset.setReg 3 0x2A)).pc) = (0x204, 0x202) := by decide
/-- §2.1 #15, #16 -/
theorem test_sneImm : ((slotOf 0x432A (State.reset.setReg 3 0x2A)).pc, (slotOf 0x432B (State.reset.setReg 3 0x2A)).pc) = (0x202, 0x204) := by decide
/-- §2.1 #18, #19 -/
theorem test_seReg : ((slotOf 0x512F (regs2 1 7 2 7)).pc, (slotOf 0x5120 (regs2 1 7 2 8)).pc) = (0x204, 0x202) := by decide
/-- §2.2 #1 -/
theorem test_ldImm : (slotOf 0x6A2C State.reset).reg 10 = 0x2C := by decide
/-- §2.2 #3 -/
theorem test_addImm : let s := slotOf 0x7120 (regs2 1 0xF0 15 9); (s.reg 1, s.reg 15) = (0x10, 9) := by decide
/-- §2.2 #6 -/
theorem test_ldReg : (slotOf 0x8120 (State.reset.setReg 2 9)).reg 1 = 9 := by decide
/-- §2.2 #7 -/
theorem test_orReg : let s := slotOf 0x8121 ((regs2 1 0x0F 2 0xF0).setReg 15 1); (s.reg 1, s.reg 15) = (0xFF, 1) := by decide
/-- §2.2 #8 -/
theorem test_andReg : let s := slotOf 0x8122 ((regs2 1 0x3C 2 0x0F).setReg 15 1); (s.reg 1, s.reg 15) = (0x0C, 1) := by decide
/-- §2.2 #9 -/
theorem test_xorReg : let s := slotOf 0x8123 ((regs2 1 0xFF 2 0x0F).setReg 15 1); (s.reg 1, s.reg 15) = (0xF0, 1) := by decide
/-- §2.2 #11 -/
theorem test_addReg : let s := slotOf 0x8124 (regs2 1 255 2 1); (s.reg 1, s.reg 15) = (0, 1) := by decide
/-- §2.2 #14, #15 -/
theorem test_addReg_aliased : ((slotOf 0x81F4 (regs2 1 250 15 10)).reg 1, (slotOf 0x8F14 (regs2 15 200 1 100)).reg 15) = (4, 44) := by decide
/-- E4 -/
theorem test_sub : let s := slotOf 0x8125 (regs2 1 5 2 10); (s.reg 1, s.reg 15) = (251, 0) := by decide
/-- §2.2 #20, #22 -/
theorem test_sub_aliased : ((slotOf 0x81F5 (regs2 1 10 15 3)).reg 1, (slotOf 0x8F15 (regs2 15 10 1 3)).reg 15) = (9, 254) := by decide
/-- §2.2 #25 -/
theorem test_shr : let s := slotOf 0x8126 (regs2 1 0xFF 2 0x10); (s.reg 1, s.reg 15, s.reg 2) = (0x7F, 1, 0x10) := by decide
/-- §2.2 #28 -/
theorem test_shr_aliased : (slotOf 0x8F06 (State.reset.setReg 15 3)).reg 15 = 0 := by decide
/-- §2.2 #30 -/
theorem test_subn : let s := slotOf 0x8127 (regs2 1 10 2 5); (s.reg 1, s.reg 15) = (251, 0) := by decide
/-- §2.2 #32, #34 -/
theorem test_subn_aliased : ((slotOf 0x8F17 (regs2 15 3 1 10)).reg 15, (slotOf 0x81F7 (regs2 15 10 1 3)).reg 1) = (9, 254) := by decide
/-- §2.2 #37 -/
theorem test_shl : let s := slotOf 0x812E (regs2 1 0xFF 2 1); (s.reg 1, s.reg 15, s.reg 2) = (0xFE, 1, 1) := by decide
/-- §2.2 #39 -/
theorem test_shl_aliased : (slotOf 0x8F0E (State.reset.setReg 15 0x80)).reg 15 = 2 := by decide
/-- §2.6 #4 -/
theorem test_nop8 : let s := slotOf 0x812F ((regs2 1 0xF0 2 0x0F).setReg 15 1); (s.reg 1, s.reg 15, s.pc) = (0xF0, 1, 0x202) := by decide
/-- §2.1 #20, #21 -/
theorem test_sneReg : ((slotOf 0x9120 (regs2 1 7 2 8)).pc, (slotOf 0x9125 (regs2 1 7 2 7)).pc) = (0x204, 0x202) := by decide
/-- §2.3 #1 -/
theorem test_ldI : (slotOf 0xAFFF State.reset).index = 0x0FFF := by decide
/-- §2.1 #12 -/
theorem test_jpV0 : (slotOf 0xBFFF (State.reset.setReg 0 0xFF)).pc = 0x10FE := by decide
/-- §2.2 #41 -/
theorem test_rnd : (slotWith { quiet with rnd := 0xB7 } 0xC10F State.reset).reg 1 = 0x07 := by decide
/-- §2.4 #4 -/
theorem test_drw_collision : let s := slotOf 0xD011 (bytesAt 0x300 [0x3C] (slotOf 0xD011 (bytesAt 0x300 [0xF0] (State.reset.setIndex 0x300)))); (cells s 0 0 8, s.reg 15, s.frameReady) = ([true, true, false, false, true, true, false, false], 1, true) := by decide
/-- §2.4 #6, #7 -/
theorem test_drw_origin : ((cells (slotOf 0xD011 (bytesAt 0x300 [0x80] ((regs2 0 67 1 33).setIndex 0x300))) 2 1 3), (cells (slotOf 0xDF11 (bytesAt 0x300 [0x80] ((State.reset.setReg 15 5).setIndex 0x300))) 4 0 3)) = ([false, true, false], [false, true, false]) := by decide
/-- G1 -/
theorem test_drw_linear_spill : let s := slotOf 0xD011 (bytesAt 0x300 [0xFF] ((regs2 0 60 1 5).setIndex 0x300)); (cells s 59 5 5, cells s 0 6 5, s.reg 15) = ([false, true, true, true, true], [true, true, true, true, false], 0) := by decide
/-- G2 -/
theorem test_drw_linear_fault : let s := slotOf 0xD012 (bytesAt 0x300 [0x80, 0x80] ((regs2 0 0 1 31).setIndex 0x300)); (s.runState, s.faultCause.code, s.faultPc, cells s 0 31 1, s.frameReady) = (.faulted, 6, 0x200, [false], false) := by decide
/-- G2 -/
theorem test_drw_wrap : let s := slotOf 0xD012 (bytesAt 0x300 [0x80, 0x80] { ((regs2 0 0 1 31).setIndex 0x300) with cfg := { Config.default with drawEdgeMode := .wrap } }); (cells s 0 31 1, cells s 0 0 1, s.reg 15) = ([true], [true], 0) := by decide
/-- G3 -/
theorem test_drw_clip : let s := slotOf 0xD011 (bytesAt 0x300 [0xFF] { ((regs2 0 60 1 31).setIndex 0x300) with cfg := { Config.default with drawEdgeMode := .clip } }); (cells s 60 31 4, cells s 0 31 4, s.reg 15) = ([true, true, true, true], [false, false, false, false], 0) := by decide
/-- §2.4 #11 -/
theorem test_drw_mem_oob : let s := slotOf 0xD012 ((State.reset.setReg 15 7).setIndex 0xFFF); (s.runState, s.faultCause.code, s.reg 15) = (.faulted, 4, 7) := by decide
/-- §2.5 #8, #9 -/
theorem test_skp_after_event : ((slotWith { quiet with events := [.keyDown 3] } 0xE19E (State.reset.setReg 1 3)).pc, (slotWith { quiet with events := [.keyDown 3, .keyUp 3] } 0xE19E (State.reset.setReg 1 3)).pc) = (0x204, 0x202) := by decide
/-- §2.5 #5 -/
theorem test_skp_fault : let s := slotOf 0xE19E (State.reset.setReg 1 0x10); (s.runState, s.faultCause.code, s.faultPc) = (.faulted, 5, 0x200) := by decide
/-- §2.5 #3, #4 -/
theorem test_sknp : ((slotOf 0xE1A1 (State.reset.setReg 1 0x0A)).pc, (slotOf 0xE1A1 ((State.reset.setReg 1 0x0A).setKey 10 true)).pc) = (0x204, 0x202) := by decide
/-- §2.5 #7 -/
theorem test_nopE : let s := slotOf 0xE100 (State.reset.setReg 1 0xFF); (s.runState, s.pc) = (.running, 0x202) := by decide
/-- §2.5 #11 -/
theorem test_ldVxDt_after_tick : let s := slotWith { quiet with tickDue := true } 0xF207 (State.reset.setDt 1); (s.dt, s.reg 2) = (0, 0) := by decide
/-- §2.5 #10 -/
theorem test_ldVxDt : (slotOf 0xF207 (State.reset.setDt 0x3C)).reg 2 = 0x3C := by decide
/-- S7 -/
theorem test_ldVxK_same_slot_event : let s := slotWith { quiet with events := [.keyDown 4] } 0xF50A State.reset; (s.runState, s.keyPressed 4, s.reg 5, s.ir, s.pc) = (.waitKey, true, 0, 0xF50A, 0x202) := by decide
/-- §2.5 #13 -/
theorem test_ldDtVx : (slotWith { quiet with tickDue := true } 0xF215 (State.reset.setReg 2 60)).dt = 60 := by decide
/-- §2.5 #14 -/
theorem test_ldStVx : let s := slotOf 0xF218 (State.reset.setReg 2 5); (s.st, s.soundActive) = (5, true) := by decide
/-- §2.3 #4 -/
theorem test_addI : let s := slotOf 0xF11E ((State.reset.setReg 1 2).setIndex 0xFFE); (s.index, s.reg 15) = (0x000, 1) := by decide
/-- §2.3 #7 -/
theorem test_addI_aliased : let s := slotOf 0xFF1E ((State.reset.setReg 15 0x20).setIndex 0xFF0); (s.index, s.reg 15) = (0xFF1, 1) := by decide
/-- §2.3 #10 -/
theorem test_ldF : (slotOf 0xF129 (State.reset.setReg 1 0x1A)).index = 0x0D2 := by decide
/-- E7 -/
theorem test_ldB : let s := slotOf 0xF133 ((State.reset.setReg 1 234).setIndex 0x300); (s.byteAt 0x300, s.byteAt 0x301, s.byteAt 0x302, s.index) = (2, 3, 4, 0x300) := by decide
/-- §2.3 #17 -/
theorem test_ldB_fault : let s := slotOf 0xF133 ((State.reset.setReg 1 9).setIndex 0xFFE); (s.runState, s.faultCause.code, s.faultPc, s.byteAt 0xFFF) = (.faulted, 4, 0x200, 0) := by decide
/-- E8 -/
theorem test_stRegs : let s := slotOf 0xF355 { State.reset with v := #v[1, 2, 3, 4, 5, 0, 0, 0, 0, 0, 0, 0, 0, 0, 0, 0], index := 0x300 }; ((List.range 5).map fun k => s.byteAt (0x300 + k)) = [1, 2, 3, 4, 0] := by decide
/-- §2.3 #21 -/
theorem test_ldRegs : let s := slotOf 0xF265 (bytesAt 0x300 [9, 8, 7] ((State.reset.setReg 3 0x55).setIndex 0x300)); (s.reg 0, s.reg 1, s.reg 2, s.reg 3) = (9, 8, 7, 0x55) := by decide
/-- §2.3 #23, with the default font -/
theorem test_ldRegs_font : let s := slotOf 0xF465 (State.reset.setIndex 0x050); (s.reg 0, s.reg 1, s.reg 4) = (0xF0, 0x90, 0xF0) := by decide
/-- §2.6 #8 -/
theorem test_nopF : let s := slotOf 0xF130 ((State.reset.setReg 1 5).setIndex 0x300); (s.index, s.pc) = (0x300, 0x202) := by decide
/-- S1 -/
theorem test_precise_fault : let s := slotWith { quiet with tickDue := true, events := [.keyDown 2] } 0x00EE (State.reset.setDt 5); (s.dt, s.keyPressed 2, s.ir, s.sp) = (4, true, 0, 0) ∧
    (s.runState, s.faultCause.code, s.faultPc, s.pc) = (.faulted, 3, 0x200, 0x200) := by decide

/-! ## Behaviour: the slot machinery (`95_test_vectors.md`, part 3) -/

/-- The state after one step with the inputs `inp`. -/
def stepWith (inp : StepInput) (s : State) : State :=
  match step { s with script := [inp] } with
  | .next t => t
  | .fault r => nomatch r
  | .refused _ => s

/-- The machine in WAIT_KEY for `F50A` at 0x200. -/
def waiting : State := { State.reset with runState := .waitKey, ir := 0xF50A, pc := 0x202, dt := 3 }

/-- S2 -/
theorem test_quit_preempts :
    let s := stepWith { quiet with events := [.keyDown 1, .quit, .keyDown 2] } { State.reset with runState := .running, pc := 0xFFF }
    (s.keyPressed 1, s.keyPressed 2, s.runState, s.faultCause.code, s.pc) = (true, false, .stopped, 0, 0xFFF) := by decide
/-- S3 -/
theorem test_fetch_last_word :
    let s := stepWith quiet (bytesAt 0xFFE [0x6A, 0x2C] { State.reset with runState := .running, pc := 0xFFE })
    (s.reg 10, s.pc) = (0x2C, 0x1000) := by decide
/-- S3 -/
theorem test_fetch_bound :
    let s := stepWith quiet { State.reset with runState := .running, pc := 0x1000 }
    (s.runState, s.faultCause.code, s.faultPc, s.pc) = (.faulted, 1, 0x1000, 0x1000) := by decide
/-- S5: a key-up is recorded and does not end the wait; no tick comes. -/
theorem test_wake_keyUp :
    let s := stepWith { quiet with tickDue := true, events := [.keyUp 3] } (waiting.setKey 3 true)
    (s.keyPressed 3, s.runState, s.dt) = (false, .waitKey, 3) := by decide
/-- S5 and S9: the key-down ends the wait, and the event behind it stays queued. -/
theorem test_wake_keyDown :
    let s := stepWith { quiet with events := [.keyDown 7, .keyUp 7] } waiting
    (s.reg 5, s.keyPressed 7, s.runState, s.pc, s.pending) = (7, true, .running, 0x202, [.keyUp 7]) := by decide
/-- S8 -/
theorem test_wake_quit :
    let s := stepWith { quiet with events := [.quit] } waiting
    (s.reg 5, s.runState, s.faultCause.code) = (0, .stopped, 0) := by decide
/-- R289: the load port and `start`, in IDLE; host events are discarded (R287). -/
theorem test_load_and_start :
    let s := stepWith { quiet with loads := imageLoads [0x12, 0x00], start := true, events := [.keyDown 1] } State.reset
    (s.byteAt 0x200, s.byteAt 0x201, s.runState, s.pc, s.keyPressed 1) = (0x12, 0x00, .running, 0x200, false) := by decide
/-- R289: outside IDLE the load port is not honoured. -/
theorem test_no_load_when_running :
    (stepWith { quiet with loads := [(0x300, 7)] } { State.reset with runState := .running }).byteAt 0x300 = 0 := by decide
/-- R320: reset from FAULTED, over a pending event. -/
theorem test_reset_line :
    let s := stepWith { quiet with reset := true } { waiting with runState := .faulted, faultCause := .memOob, pending := [.keyDown 1] }
    (s.runState, s.faultCause.code, s.pc, s.ir, s.pending) = (.idle, 0, 0x200, 0, []) := by decide
/-- A store of an address's reset content removes its entry: equal memories are equal data. -/
theorem test_memory_canonical :
    ((State.reset.storeByte 0x300 5).storeByte 0x050 0x11).storeByte 0x300 0 = State.reset.storeByte 0x050 0x11 := by decide

/-! ## Witnesses: a concrete input that meets the hypotheses of each obligation, clause by clause, at the edges of their ranges -/

/-- RUNNING, with `w` at `pc` and the inputs `inp` for the step. -/
def at_ (pc : Word) (w : Word) (inp : StepInput) (s : State) : State :=
  bytesAt pc.toNat [BitVec.ofNat 8 (slice w 15 8), BitVec.ofNat 8 (slice w 7 0)] { s with runState := .running, pc := pc, script := [inp] }

theorem witness_DecodeInvertsEncode :
    (Instr.nop0 0x0EF).wf = true ∧ (Instr.nop8 1 2 0xF).wf = true ∧ (Instr.nopE 1 0xA0).wf = true ∧ (Instr.nopF 15 0xFF).wf = true ∧
      (Instr.drw 15 15 15).wf = true := by decide

theorem witness_EncodeInvertsDecode : decodeWord 0x01EE = .ok (.nop0 0x1EE) ∧ decodeWord 0xFFFF = .ok (.nopF 15 0xFF) := by decide

theorem witness_EveryWordSelectsOneRow :
    (Instr.shr 1 2).ignored = (Instr.sub 1 2).ignored ∧ (0x8126 : Word) &&& (Instr.shr 1 2).mask = (Instr.shr 1 2).pattern ∧
      (Instr.nop8 1 2 15).ignored = true ∧ (0x812F : Word) &&& (Instr.nop8 1 2 15).mask = (Instr.nop8 1 2 15).pattern := by decide

theorem witness_IgnoredFieldsChangeNothing : (Instr.nop0 0).ignored = true ∧ (Instr.nopF 1 0xFF).ignored = true := by decide

theorem witness_AddRegistersSetsCarry : (0 : Reg) ≠ VF ∧ (1 : Reg) ≠ 0 ∧ (1 : Reg) ≠ VF := by decide

theorem witness_RandomIsMaskedDraw :
    (0x0F : Byte).getLsbD 7 = false ∧ (0x0F : Byte).getLsbD 0 = true ∧ (at_ 0x200 0xC10F quiet State.reset).script = quiet :: [] := by decide

theorem witness_CallPushesOrOverflows :
    ({ State.reset with sp := 15 } : State).sp.val < 16 ∧ ({ State.reset with sp := 16 } : State).sp.val = 16 := by decide

theorem witness_ReturnPopsOrUnderflows :
    ({ State.reset with sp := 16 } : State).sp.val = (15 : Fin 16).val + 1 ∧ State.reset.cfg.retMode = .asObserved ∧
      ({ Config.default with retMode := .restorePc } : Config).retMode = .restorePc ∧ State.reset.sp.val = 0 := by decide

theorem witness_CallThenReturn : ({ State.reset with sp := 15 } : State).sp.val < 16 := by decide

theorem witness_SeventeenthCallOverflows : State.reset.sp.val = 0 ∧ (List.replicate 16 (0x300 : Addr)).length = 16 := by decide

theorem witness_StoreDecimalDigits :
    (State.reset.setIndex 0xFFD).index.toNat + 2 ≤ 0xFFF ∧ (State.reset.setIndex 0xFFE).index.toNat + 2 > 0xFFF := by decide

theorem witness_StoreRegisterBlock :
    (State.reset.setIndex 0xFF0).index.toNat + (15 : Reg).val ≤ 0xFFF ∧ (State.reset.setIndex 0xFF1).index.toNat + (15 : Reg).val > 0xFFF ∧
      (15 : Reg) ≤ 15 := by decide

theorem witness_LoadRegisterBlock :
    (State.reset.setIndex 0xFFF).index.toNat + (0 : Reg).val ≤ 0xFFF ∧ (State.reset.setIndex 0xFFF).index.toNat + (1 : Reg).val > 0xFFF ∧
      (0 : Reg) ≤ 0 ∧ (0 : Reg) < 1 := by decide

theorem witness_StoreThenLoadReproduces : (State.reset.setIndex 0xFF0).index.toNat + (15 : Reg).val ≤ 0xFFF := by decide

theorem witness_StoreSeenByNextFetch :
    (State.reset.setIndex 0xFF0).index.toNat + (15 : Reg).val ≤ 0xFFF ∧ (0xFFE : Word).toNat ≤ 0xFFE ∧
      (State.reset.setIndex 0xFFD).index.toNat + 2 ≤ 0xFFF := by decide

/-- R72: a fetch inside the block stored, and one across its lower edge. -/
theorem test_store_then_fetch :
    let s := slotOf 0xF155 ((regs2 0 0x6A 1 0x2C).setIndex 0x300)
    (s.setPc 0x300).fetch = .ok 0x6A2C ∧ (s.setPc 0x2FF).fetch = .ok 0x006A := ⟨rfl, rfl⟩

/-- Behind reset, with no input fixed, the placed instruction is what the very next step runs (log 14). -/
theorem test_withFetchWord_from_reset :
    ∃ t, step (State.reset.withFetchWord 16 0x6A2C) = .next t ∧ t.reg 10 = 0x2C ∧ t.runState = .running ∧ t.script = [] :=
  ⟨_, rfl, by decide, by decide, by decide⟩

/-- `I` at the font's glyph 0 (F0 90 90 90 F0), the origin in `V0`, `V1`, an edge mode. -/
def glyphAt (mode : DrawEdgeMode) (cx cy : Byte) : State :=
  { (regs2 0 cx 1 cy).setIndex 0x050 with cfg := { Config.default with drawEdgeMode := mode } }

theorem witness_DrawInvertsTouchedCells :
    (glyphAt .linear 60 27).drawable 0 1 5 ∧ (glyphAt .wrap 60 30).drawable 0 1 5 ∧ (glyphAt .clip 60 30).drawable 0 1 5 :=
  ⟨drawFault_eq_none.1 (by decide), drawFault_eq_none.1 (by decide), drawFault_eq_none.1 (by decide)⟩

/-- The last sprite byte at 0xFFF, and no sprite byte with `I` beyond every byte. -/
theorem witness_DrawInvertsTouchedCells_edges :
    (State.reset.setIndex 0xFF1).index.toNat + (15 : BitVec 4).toNat = 0x1000 ∧ (State.reset.setIndex 0xFF1).drawable 0 1 15 ∧
      (State.reset.setIndex 0xFFF).drawable 0 1 0 :=
  ⟨by decide, drawFault_eq_none.1 (by decide), drawFault_eq_none.1 (by decide)⟩

theorem witness_DrawInvertsTouchedCells_collision :
    ∃ k, ((glyphAt .wrap 60 30).setDisp (Display.blank.flip 1980)).touches 0 1 5 k ∧
      ((glyphAt .wrap 60 30).setDisp (Display.blank.flip 1980)).disp.cell k = true :=
  ⟨60 + 30 % 32 * 64, (show (glyphAt .wrap 60 30).touches 0 1 5 (60 + 30 % 32 * 64) from
    ⟨0, 0, by unfold State.spriteBit; decide, by unfold LandsOn glyphAt; decide⟩), by decide⟩

theorem witness_DrawInvertsTouchedCells_memOob :
    (2 : BitVec 4) ≠ 0 ∧ (State.reset.setIndex 0xFFF).index.toNat + (2 : BitVec 4).toNat > 0x1000 := by decide

theorem witness_DrawInvertsTouchedCells_displayOob :
    (glyphAt .linear 0 28).index.toNat + (5 : BitVec 4).toNat ≤ 0x1000 ∧ (glyphAt .linear 0 28).cfg.drawEdgeMode = .linear ∧
      ∃ k, (glyphAt .linear 0 28).touches 0 1 5 k ∧ k > 2047 :=
  ⟨by decide, rfl, 2048, ⟨4, 0, by unfold State.spriteBit; decide, by unfold LandsOn glyphAt; decide⟩, by decide⟩

theorem witness_DrawTwiceRestores : (0 : Reg) ≠ VF ∧ (1 : Reg) ≠ VF ∧ (glyphAt .linear 60 27).drawable 0 1 5 :=
  ⟨by decide, by decide, drawFault_eq_none.1 (by decide)⟩

theorem witness_EdgeModesAgreeInsideGrid_once :
    (glyphAt .wrap 60 30).spriteBit 5 4 3 ∧ LandsOn .wrap 60 30 4 3 (63 + 2 * 64) := by
  constructor
  · unfold State.spriteBit; decide
  · unfold LandsOn; decide

theorem witness_EdgeModesAgreeInsideGrid :
    (glyphAt .linear 56 27).index.toNat + (5 : BitVec 4).toNat ≤ 0x1000 ∧
      ∀ r c, (glyphAt .linear 56 27).spriteBit (5 : BitVec 4).toNat r c →
        ((glyphAt .linear 56 27).reg 0).toNat % 64 + c ≤ 63 ∧ ((glyphAt .linear 56 27).reg 1).toNat % 32 + r ≤ 31 := by
  refine ⟨by decide, fun r c h => ?_⟩
  have hr : r < 5 := h.1
  have hc := h.2.1
  rw [show ((glyphAt .linear 56 27).reg 0).toNat % 64 = 56 by decide, show ((glyphAt .linear 56 27).reg 1).toNat % 32 = 27 by decide]
  omega

theorem witness_KeySkips :
    ((State.reset.setReg 1 15).reg 1).toNat = (15 : KeyNum).val ∧ ((State.reset.setReg 1 16).reg 1).toNat > 15 := by decide

theorem witness_FlagWritersAreSeven :
    ∃ t, exec (.addReg 1 2) (regs2 1 255 2 1) = .next t ∧ t.reg VF ≠ (regs2 1 255 2 1).reg VF := ⟨_, rfl, by decide⟩

theorem witness_StepRunsDecodedInstruction :
    let s := at_ 0xFFE 0x6A2C quiet State.reset
    s.input.reset = false ∧ s.runState = .running ∧ s.quitFree ∧ s.pc.toNat ≤ 0xFFE ∧ decodeWord s.wordAtPc = .ok (.ldImm 10 0x2C) := by
  unfold State.quitFree; decide

theorem witness_FetchBoundFaults :
    let s := at_ 0xFFF 0x0000 quiet State.reset
    s.input.reset = false ∧ s.runState = .running ∧ s.quitFree ∧ s.pc.toNat ≥ 0xFFF := by
  unfold State.quitFree; decide

theorem witness_FaultsArePrecise :
    let s := at_ 0x200 0x00EE quiet State.reset
    s.input.reset = false ∧ s.runState = .running ∧ ∃ t, step s = .next t ∧ t.runState = .faulted := ⟨rfl, rfl, _, rfl, by decide⟩

theorem witness_QuitStopsTheMachine :
    let s := at_ 0x200 0x00E0 { quiet with events := [.keyDown 1, .quit] } State.reset
    let u := { waiting with script := [{ quiet with events := [.quit] }] }
    (s.input.reset = false ∧ s.runState = .running ∧ HostEvent.quit ∈ s.arrived) ∧
      (u.input.reset = false ∧ u.runState = .waitKey ∧ u.arrived.head? = some .quit) ∧
      (({ State.reset with script := [quiet] } : State).input.reset = false ∧ State.reset.runState = .idle ∧
        ({ State.reset with script := [quiet] } : State).script = quiet :: []) := by decide

theorem witness_WakeUpStep :
    let s := { waiting with script := [quiet] }
    let u := { waiting with script := [{ quiet with events := [.keyUp 3] }] }
    let v := { waiting with script := [quiet], pending := [.keyDown 7, .keyUp 7] }
    (s.input.reset = false ∧ s.runState = .waitKey ∧ s.arrived = []) ∧
      (u.input.reset = false ∧ u.runState = .waitKey ∧ u.arrived = .keyUp 3 :: []) ∧
      (v.input.reset = false ∧ v.runState = .waitKey ∧ v.arrived = .keyDown 7 :: [.keyUp 7]) := by decide

theorem witness_KeyWaitDeliversKey :
    let s := { at_ 0x200 0xF50A quiet State.reset with script := [quiet, { quiet with events := [.keyDown 7] }] }
    s.input.reset = false ∧ s.runState = .running ∧ s.quitFree ∧ s.pc.toNat ≤ 0xFFE ∧ s.wordAtPc = encode (.ldVxK 5) ∧
      ∃ t, step s = .next t ∧ t.input.reset = false ∧ t.arrived = .keyDown 7 :: [] :=
  ⟨rfl, rfl, by unfold State.quitFree; decide, by decide, by decide, _, rfl, by decide, by decide⟩

theorem witness_NoSlotOutsideRunning :
    let s := { State.reset with script := [{ quiet with tickDue := true, events := [.keyDown 1] }] }
    s.input.reset = false ∧ s.runState = .idle ∧ ({ s with runState := .faulted } : State).runState = .faulted ∧
      ({ s with runState := .stopped } : State).runState = .stopped := by decide

theorem witness_LoadPortAndStart :
    let s := { State.reset with script := [{ quiet with loads := [(0x200, 1), (0xFFF, 2), (0x200, 3)], start := true }] }
    s.input.reset = false ∧ s.runState = .idle := by decide

theorem witness_LaunchFromReset :
    (1 ≤ ([0x12] : List Byte).length ∧ (List.replicate 3584 (0x12 : Byte)).length ≤ 3584) ∧
      let inp := { quiet with start := true, loads := imageLoads [0x12] }
      inp.reset = false ∧ inp.start = true ∧ inp.loads = imageLoads [0x12] := by
  rw [List.length_replicate]; decide

theorem witness_ResetFromAnyState :
    ({ waiting with runState := .faulted, script := [{ quiet with reset := true }] } : State).input.reset = true := by decide

theorem witness_FrameReadyOncePerDraw :
    let s := at_ 0x200 0xD010 quiet State.reset
    ∃ t, step s = .next t ∧ t.frameReady = true ∧ decodeWord s.wordAtPc = .ok (.drw 0 1 0) := ⟨_, rfl, by decide, by decide⟩

theorem witness_RunStateTransitions :
    let s := at_ 0x200 0xF50A quiet State.reset
    let u := at_ 0x200 0xF50A { quiet with events := [.quit] } State.reset
    let f := { State.reset with runState := .faulted, script := [quiet] }
    let h := { State.reset with runState := .stopped, script := [quiet] }
    let r := { State.reset with script := [{ quiet with reset := true }] }
    (∃ t, step s = .next t ∧ s.input.reset = false ∧ s.runState = .running ∧ s.quitFree ∧ t.runState = .waitKey) ∧
      (∃ t, step u = .next t ∧ u.input.reset = false ∧ u.runState = .running ∧ HostEvent.quit ∈ u.arrived) ∧
      (∃ t, step f = .next t ∧ f.input.reset = false ∧ f.runState = .faulted) ∧
      (∃ t, step h = .next t ∧ h.input.reset = false ∧ h.runState = .stopped) ∧
      (∃ t, step r = .next t ∧ r.input.reset = true) :=
  ⟨⟨_, rfl, rfl, rfl, by unfold State.quitFree; decide, by decide⟩, ⟨_, rfl, rfl, rfl, by decide⟩, ⟨_, rfl, rfl, rfl⟩, ⟨_, rfl, rfl, rfl⟩,
    ⟨_, rfl, rfl⟩⟩

theorem witness_MemoryWriters :
    let s := at_ 0x200 0xF055 quiet ((State.reset.setReg 0 5).setIndex 0xFFF)
    let u := { State.reset with script := [{ quiet with loads := [(0x300, 7)] }] }
    (∃ t, step s = .next t ∧ s.input.reset = false ∧ t.byteAt 0xFFF ≠ s.byteAt 0xFFF) ∧
      ∃ t, step u = .next t ∧ u.input.reset = false ∧ t.byteAt 0x300 ≠ u.byteAt 0x300 :=
  ⟨⟨_, rfl, rfl, by decide⟩, ⟨_, rfl, rfl, by decide⟩⟩

theorem witness_DisplayWriters :
    let s := at_ 0x200 0xD015 quiet (State.reset.setIndex 0x050)
    ∃ t, step s = .next t ∧ s.input.reset = false ∧ t.disp ≠ s.disp := ⟨_, rfl, rfl, by decide⟩

theorem atEnd_200 : (at_ 0x200 0x1200 quiet State.reset).atEnd := ⟨rfl, by decide, 0x200, by decide, by decide⟩

theorem witness_SelfJumpIsTheEnd :
    let s := at_ 0x200 0x1200 quiet State.reset
    s.atEnd ∧ s.input.reset = false ∧ s.quitFree := ⟨atEnd_200, rfl, by unfold State.quitFree; decide⟩

theorem witness_FinishedProgramCountsDown :
    let s := { at_ 0x200 0x1200 quiet State.reset with script := [{ quiet with tickDue := true, events := [.keyDown 1] }, quiet] }
    s.atEnd ∧ HostEvent.quit ∉ s.pending ∧ ∀ inp ∈ s.script, inp.reset = false ∧ HostEvent.quit ∉ inp.events :=
  ⟨⟨rfl, by decide, 0x200, by decide, by decide⟩, by decide, by decide⟩

theorem witness_IndexStaysTwelveBits :
    let s := at_ 0x200 0xF11E quiet ((State.reset.setReg 1 0xFF).setIndex 0xFFF)
    s.indexInRange ∧ ∃ t, step s = .next t ∧ t.index = 0x0FE :=
  ⟨by unfold State.indexInRange; decide, _, rfl, by decide⟩

theorem witness_PcStaysBelowBound :
    let s := at_ 0xFFE 0xBFFF quiet { State.reset.setReg 0 0xFF with stack := State.reset.stack.set 0 0x10FE }
    s.pcInRange ∧ ∃ t, step s = .next t ∧ t.pc = 0x10FE :=
  ⟨⟨by decide, by decide⟩, _, rfl, by decide⟩

theorem witness_MemoryStaysCanonical :
    let s := at_ 0x200 0xF133 quiet ((State.reset.setReg 1 234).setIndex 0x050)
    s.memCanonical ∧ ∃ t, step s = .next t ∧ t.mem ≠ s.mem :=
  ⟨by unfold State.memCanonical; decide, _, rfl, by decide⟩

theorem witness_FaultRecordStaysRight :
    let s := at_ 0x200 0x00EE quiet State.reset
    let f := { State.reset with runState := .faulted, faultCause := .memOob, faultPc := 0x200, script := [quiet] }
    (s.faultRecordRight ∧ ∃ t, step s = .next t ∧ t.runState = .faulted) ∧
      f.faultRecordRight ∧ f.input.reset = false ∧ f.runState = .faulted ∧ ∃ t, step f = .next t :=
  ⟨⟨by unfold State.faultRecordRight; decide, _, rfl, by decide⟩, by unfold State.faultRecordRight; decide, rfl, rfl, _, rfl⟩

theorem witness_WaitHoldsItsWord :
    let s := { waiting with script := [{ quiet with events := [.keyUp 3] }] }
    s.waitHoldsKeyWord ∧ s.runState = .waitKey ∧ ∃ t, step s = .next t ∧ t.runState = .waitKey :=
  ⟨fun _ => ⟨5, by decide⟩, rfl, _, rfl, by decide⟩

end Sys2Proof.Tests
end

section
/-! PROOFS. What an instruction may write: every arm of `exec` keeps to the tables of R39 and R271. -/

namespace Sys2Proof.Machine

variable {s t u : State} {i : Instr} {r : FaultReport}

/-! ## Frames of the single updates -/

/-- Two changes one after the other leave what both leave. -/
theorem UnchangedBut.trans {l l' : List Part} (h1 : UnchangedBut l s t) (h2 : UnchangedBut l' t u) :
    UnchangedBut (l ++ l') s u := fun p hp => by
  rw [List.mem_append, not_or] at hp
  exact Part.same_trans (h1 p hp.1) (h2 p hp.2)

theorem unchangedBut_refl (s : State) : UnchangedBut [] s s := by
  intro p _; cases p <;> simp [Part.same]

theorem unchangedBut_setPc (s : State) (a : Word) : UnchangedBut [.pc] s (s.setPc a) := by
  intro p hp; cases p <;> simp_all [Part.same]

theorem unchangedBut_setIndex (s : State) (a : Word) : UnchangedBut [.index] s (s.setIndex a) := by
  intro p hp; cases p <;> simp_all [Part.same]

theorem unchangedBut_setDisp (s : State) (d : Display) : UnchangedBut [.disp] s (s.setDisp d) := by
  intro p hp; cases p <;> simp_all [Part.same]

theorem unchangedBut_setDt (s : State) (b : Byte) : UnchangedBut [.dt] s (s.setDt b) := by
  intro p hp; cases p <;> simp_all [Part.same]

theorem unchangedBut_setSt (s : State) (b : Byte) : UnchangedBut [.st] s (s.setSt b) := by
  intro p hp; cases p <;> simp_all [Part.same]

theorem unchangedBut_setRun (s : State) (q : RunState) : UnchangedBut [.runState] s (s.setRun q) := by
  intro p hp; cases p <;> simp_all [Part.same]

theorem unchangedBut_setReg (s : State) (x : Reg) (b : Byte) : UnchangedBut [.regs] s (s.setReg x b) :=
  (onlyReg_setReg s x b).2.2

theorem unchangedBut_storeByte (s : State) (a : Nat) (b : Byte) : UnchangedBut [.mem] s (s.storeByte a b) := by
  intro p hp; cases p <;> simp_all [Part.same]

theorem unchangedBut_of_pop {a : Word} (h : s.pop = some (a, t)) : UnchangedBut [.sp] s t := by
  obtain ⟨_, _, rfl⟩ := s.pop_eq_some.1 h
  intro p hp; cases p <;> simp_all [Part.same, State.reg, State.byteAt]

theorem unchangedBut_of_push {a : Word} (h : s.push a = some t) : UnchangedBut [.stack, .sp] s t := by
  obtain ⟨_, rfl⟩ := s.push_eq_some.1 h
  intro p hp; cases p <;> simp_all [Part.same, State.reg, State.byteAt]

/-! ## The two ways an instruction ends -/

/-- The instruction has completed and written only what its row of R39 lists. -/
def Completes (i : Instr) (s t : State) : Prop :=
  UnchangedBut i.writes s t ∧ (∀ q, ¬ i.writesReg q → t.reg q = s.reg q) ∧
    ∀ a, ¬ i.stores s a → t.byteAt a = s.byteAt a

/-- The instruction has raised a fault that R271 lists for it. -/
def Faults (i : Instr) (s t : State) : Prop := ∃ c ∈ i.faults, FaultedFrom c (s.pc - 2) s t

/-- An instruction that writes neither a register nor memory keeps both whole. -/
theorem Completes.of_unchangedBut (h : UnchangedBut i.writes s t) (regs : .regs ∉ i.writes) (mem : .mem ∉ i.writes) :
    Completes i s t := ⟨h, fun q _ => h .regs regs q, fun a _ => h .mem mem a⟩

/-- An instruction that writes registers keeps memory whole. -/
theorem Completes.of_regs (h : UnchangedBut i.writes s t) (regs : ∀ q, ¬ i.writesReg q → t.reg q = s.reg q)
    (mem : .mem ∉ i.writes) : Completes i s t := ⟨h, regs, fun a _ => h .mem mem a⟩

/-- An instruction that stores keeps the registers whole. -/
theorem Completes.of_stores (h : UnchangedBut i.writes s t) (bytes : ∀ a, ¬ i.stores s a → t.byteAt a = s.byteAt a)
    (regs : .regs ∉ i.writes) : Completes i s t := ⟨h, fun q _ => h .regs regs q, bytes⟩

theorem Completes.of_setReg {x : Reg} {b : Byte} (row : i.writes = [.regs]) (dest : i.writesReg x) :
    Completes i s (s.setReg x b) :=
  .of_regs (row ▸ unchangedBut_setReg s x b) (fun _ hq => s.reg_setReg_other b fun e => hq (e ▸ dest)) (by simp [row])

theorem Completes.of_flagThen {f : Bool} {x : Reg} {result : State → Byte} (row : i.writes = [.regs])
    (dest : i.writesReg x) (flag : i.writesReg VF) : Completes i s (s.flagThen f x result) := by
  obtain ⟨-, -, others, frame⟩ := flagAndReg_flagThen s f x result
  exact .of_regs (row ▸ frame) (fun q hq => others q (fun e => hq (e ▸ dest)) fun e => hq (e ▸ flag)) (by simp [row])

/-- The instruction raises a fault that R271 lists for it. -/
def Raises (i : Instr) (s : State) : Prop := ∃ r, r.cause ∈ i.faults ∧ exec i s = .next (s.raise r)

/-! ## The instructions that can fault: when they do not, and what they do then -/

/-- The mode decides whether a return takes `pc` from the stack (R150). -/
theorem exec_ret_cases (s : State) : Raises .ret s ∨
    ∃ a u, s.pop = some (a, u) ∧ (exec .ret s = .next u ∨ exec .ret s = .next (u.setPc a)) := by
  simp only [Raises, exec, execRet]
  cases e : s.pop with
  | none => exact .inl ⟨_, by simp [Instr.faults], rfl⟩
  | some p =>
    obtain ⟨a, u⟩ := p
    refine .inr ⟨a, u, rfl, ?_⟩
    cases s.cfg.retMode with
    | asObserved => exact .inl rfl
    | restorePc => exact .inr rfl

theorem exec_call_cases (nnn : Addr) (s : State) : Raises (.call nnn) s ∨
    ∃ u, s.push s.pc = some u ∧ exec (.call nnn) s = .next (u.setPc (zext16 nnn)) := by
  simp only [Raises, exec, execCall]
  cases e : s.push s.pc with
  | none => exact .inl ⟨_, by simp [Instr.faults], rfl⟩
  | some u => exact .inr ⟨u, rfl, rfl⟩

theorem exec_skp_cases (x : Reg) (s : State) : Raises (.skp x) s ∨ ∃ c, exec (.skp x) s = .next (s.skipIf c) := by
  simp only [Raises, exec, execSkp]
  cases e : s.keyOperand x with
  | error r => exact .inl ⟨r, by simp [Instr.faults, (s.keyOperand_error.1 e).2], rfl⟩
  | ok k => exact .inr ⟨_, rfl⟩

theorem exec_sknp_cases (x : Reg) (s : State) : Raises (.sknp x) s ∨ ∃ c, exec (.sknp x) s = .next (s.skipIf c) := by
  simp only [Raises, exec, execSknp]
  cases e : s.keyOperand x with
  | error r => exact .inl ⟨r, by simp [Instr.faults, (s.keyOperand_error.1 e).2], rfl⟩
  | ok k => exact .inr ⟨_, rfl⟩

theorem dataFault_cause {n : Nat} (h : s.dataFault n = some r) : r.cause = .memOob := by
  obtain ⟨-, -, rfl⟩ := s.dataFault_eq_some.1 h; rfl

/-- A `Dxyn` reports MEM_OOB or DISPLAY_OOB and nothing else (R271). -/
theorem drawFault_cause {x y : Reg} {n : BitVec 4} (h : s.drawFault x y n = some r) :
    r.cause = .memOob ∨ r.cause = .displayOob := by
  unfold State.drawFault at h
  cases e : s.dataFault n.toNat with
  | some q =>
    obtain rfl : q = r := by simpa [e] using h
    exact .inl (dataFault_cause e)
  | none => exact .inr (displayFault_cause (by simpa [e] using h))

theorem exec_drw_cases (x y : Reg) (n : BitVec 4) (s : State) : Raises (.drw x y n) s ∨
    ∃ d f, exec (.drw x y n) s = .next ((s.setDisp d).setReg VF (flagByte f)) := by
  simp only [Raises, exec, execDrw]
  cases e : s.drawFault x y n with
  | some r => exact .inl ⟨r, by simpa [Instr.faults] using drawFault_cause e, rfl⟩
  | none => exact .inr ⟨_, _, rfl⟩

/-- A store of digits that raises nothing has its three bytes in memory (R66, R203). -/
theorem exec_ldB_cases (x : Reg) (s : State) : Raises (.ldB x) s ∨
    (s.index.toNat + 3 ≤ 0x1000 ∧ exec (.ldB x) s = .next
      (((s.storeByte (s.dataAddr 0) (hundreds (s.reg x))).storeByte (s.dataAddr 1) (tens (s.reg x))).storeByte
        (s.dataAddr 2) (units (s.reg x)))) := by
  simp only [Raises, exec, execLdB]
  cases e : s.dataFault 3 with
  | some r => exact .inl ⟨r, by simp [Instr.faults, dataFault_cause e], rfl⟩
  | none => exact .inr ⟨by have := s.dataFault_eq_none.1 e; omega, rfl⟩

/-- A store of registers that raises nothing has its block in memory (R66, R204). -/
theorem exec_stRegs_cases (x : Reg) (s : State) : Raises (.stRegs x) s ∨
    (s.index.toNat + (x.val + 1) ≤ 0x1000 ∧ exec (.stRegs x) s = .next (s.storeRegs (x.val + 1))) := by
  simp only [Raises, exec, execStRegs]
  cases e : s.dataFault (x.val + 1) with
  | some r => exact .inl ⟨r, by simp [Instr.faults, dataFault_cause e], rfl⟩
  | none => exact .inr ⟨by have := s.dataFault_eq_none.1 e; omega, rfl⟩

theorem exec_ldRegs_cases (x : Reg) (s : State) : Raises (.ldRegs x) s ∨
    exec (.ldRegs x) s = .next (s.loadRegs (x.val + 1)) := by
  simp only [Raises, exec, execLdRegs]
  cases e : s.dataFault (x.val + 1) with
  | some r => exact .inl ⟨r, by simp [Instr.faults, dataFault_cause e], rfl⟩
  | none => exact .inr rfl

/-! ## Their frames -/

theorem completes_ret {a : Word} (e : s.pop = some (a, u)) : Completes .ret s u ∧ Completes .ret s (u.setPc a) := by
  have popped : UnchangedBut [.sp] s u := unchangedBut_of_pop e
  exact ⟨.of_unchangedBut (popped.mono (by simp [Instr.writes])) (by simp [Instr.writes]) (by simp [Instr.writes]),
    .of_unchangedBut (popped.trans (unchangedBut_setPc u a)) (by simp [Instr.writes]) (by simp [Instr.writes])⟩

theorem completes_call {nnn : Addr} (e : s.push s.pc = some u) : Completes (.call nnn) s (u.setPc (zext16 nnn)) :=
  .of_unchangedBut ((unchangedBut_of_push e).trans (unchangedBut_setPc u _)) (by simp [Instr.writes]) (by simp [Instr.writes])

theorem completes_drw (x y : Reg) (n : BitVec 4) (s : State) (d : Display) (f : Bool) :
    Completes (.drw x y n) s ((s.setDisp d).setReg VF (flagByte f)) :=
  .of_regs ((unchangedBut_setDisp s _).trans (unchangedBut_setReg _ VF _)) (fun _ hq => State.reg_setReg_other _ _ hq)
    (by simp [Instr.writes])

theorem completes_ldB (x : Reg) (s : State) (b0 b1 b2 : Byte) : Completes (.ldB x) s
    (((s.storeByte (s.dataAddr 0) b0).storeByte (s.dataAddr 1) b1).storeByte (s.dataAddr 2) b2) := by
  refine .of_stores ?_ (fun a ha => ?_) (by simp [Instr.writes])
  · exact (((unchangedBut_storeByte s _ _).trans (unchangedBut_storeByte _ _ _)).trans
      (unchangedBut_storeByte _ _ _)).mono (by simp [Instr.writes])
  · have other : ∀ k < 3, a ≠ s.dataAddr k := fun k hk q => ha ⟨k, hk, q⟩
    rw [State.byteAt_storeByte_other _ (other 2 (by omega)), State.byteAt_storeByte_other _ (other 1 (by omega)),
      State.byteAt_storeByte_other _ (other 0 (by omega))]

theorem completes_stRegs {x : Reg} (inside : s.index.toNat + (x.val + 1) ≤ 0x1000) :
    Completes (.stRegs x) s (s.storeRegs (x.val + 1)) := by
  refine .of_stores (unchangedBut_storeRegs s _) (fun a ha => ?_) (by simp [Instr.writes])
  rw [State.byteAt_storeRegs s _ a inside, if_neg]
  rintro ⟨lo, hi⟩
  exact ha ⟨a - s.index.toNat, by omega, by unfold State.dataAddr; omega⟩

theorem completes_ldRegs (x : Reg) (s : State) : Completes (.ldRegs x) s (s.loadRegs (x.val + 1)) := by
  refine .of_regs (unchangedBut_loadRegs s _) (fun q hq => ?_) (by simp [Instr.writes])
  have above : ¬ q.val ≤ x.val := hq
  rw [State.reg_loadRegs s _ q (by omega), if_neg (by omega)]

theorem completes_addI (x : Reg) (s : State) (f : Bool) (a : Word) :
    Completes (.addI x) s ((s.setReg VF (flagByte f)).setIndex a) :=
  .of_regs (((unchangedBut_setReg s VF _).trans (unchangedBut_setIndex _ _)).mono (by simp [Instr.writes]))
    (fun _ hq => s.reg_setReg_other _ hq) (by simp [Instr.writes])

/-- An arm that makes one update, neither of a register nor of memory. -/
theorem completes_of_row {p : Part} (h : UnchangedBut [p] s t) (row : i.writes = [p]) (regs : p ≠ .regs) (mem : p ≠ .mem) :
    Completes i s t := .of_unchangedBut (row ▸ h) (by simpa [row] using regs.symm) (by simpa [row] using mem.symm)

/-! ## Every instruction -/

theorem raises_or_completes (i : Instr) (s : State) : Raises i s ∨ ∃ t, exec i s = .next t ∧ Completes i s t := by
  cases i with
  | nop0 | nop8 | nopE | nopF =>
    exact .inr ⟨s, rfl, .of_unchangedBut (unchangedBut_refl s) List.not_mem_nil List.not_mem_nil⟩
  | jp | jpV0 => exact .inr ⟨_, rfl, completes_of_row (unchangedBut_setPc s _) rfl nofun nofun⟩
  | seImm | sneImm | seReg | sneReg => exact .inr ⟨_, rfl, completes_of_row (unchangedBut_skipIf s _) rfl nofun nofun⟩
  | cls => exact .inr ⟨_, rfl, completes_of_row (unchangedBut_setDisp s _) rfl nofun nofun⟩
  | ldI | ldF => exact .inr ⟨_, rfl, completes_of_row (unchangedBut_setIndex s _) rfl nofun nofun⟩
  | ldVxK => exact .inr ⟨_, rfl, completes_of_row (unchangedBut_setRun s _) rfl nofun nofun⟩
  | ldDtVx => exact .inr ⟨_, rfl, completes_of_row (unchangedBut_setDt s _) rfl nofun nofun⟩
  | ldStVx => exact .inr ⟨_, rfl, completes_of_row (unchangedBut_setSt s _) rfl nofun nofun⟩
  | ldImm | addImm | ldReg | orReg | andReg | xorReg | rnd | ldVxDt => exact .inr ⟨_, rfl, .of_setReg rfl rfl⟩
  | addReg | sub | shr | subn | shl => exact .inr ⟨_, rfl, .of_flagThen rfl (.inl rfl) (.inr rfl)⟩
  | addI x => exact .inr ⟨_, rfl, completes_addI x s _ _⟩
  | ret =>
    refine (exec_ret_cases s).imp_right ?_
    rintro ⟨a, u, popped, e | e⟩
    · exact ⟨u, e, (completes_ret popped).1⟩
    · exact ⟨_, e, (completes_ret popped).2⟩
  | call nnn => exact (exec_call_cases nnn s).imp_right fun ⟨u, pushed, e⟩ => ⟨_, e, completes_call pushed⟩
  | drw x y n => exact (exec_drw_cases x y n s).imp_right fun ⟨d, f, e⟩ => ⟨_, e, completes_drw x y n s d f⟩
  | skp x =>
    exact (exec_skp_cases x s).imp_right fun ⟨c, e⟩ => ⟨_, e, completes_of_row (unchangedBut_skipIf s c) rfl nofun nofun⟩
  | sknp x =>
    exact (exec_sknp_cases x s).imp_right fun ⟨c, e⟩ => ⟨_, e, completes_of_row (unchangedBut_skipIf s c) rfl nofun nofun⟩
  | ldB x => exact (exec_ldB_cases x s).imp_right fun ⟨_, e⟩ => ⟨_, e, completes_ldB x s _ _ _⟩
  | stRegs x => exact (exec_stRegs_cases x s).imp_right fun ⟨inside, e⟩ => ⟨_, e, completes_stRegs inside⟩
  | ldRegs x => exact (exec_ldRegs_cases x s).imp_right fun e => ⟨_, e, completes_ldRegs x s⟩

theorem exec_completes_or_faults (i : Instr) (s : State) :
    ∃ t, exec i s = .next t ∧ (Completes i s t ∨ Faults i s t) := by
  rcases raises_or_completes i s with ⟨r, listed, e⟩ | ⟨t, e, ends⟩
  · exact ⟨_, e, .inr ⟨_, listed, faultedFrom_raise s r⟩⟩
  · exact ⟨t, e, .inl ends⟩

/-- Settles O35: each arm is framed by the updates it makes. -/
theorem instructionsKeepToTheirTables : Obligations.InstructionsKeepToTheirTables := exec_completes_or_faults

end Sys2Proof.Machine
end

section
/-! PROOFS. What follows from the tables about one execution. -/

namespace Sys2Proof.Machine

variable {s t u : State} {i : Instr}

/-! ## What an execution keeps -/

theorem completes_or_faults_of_exec (h : exec i s = .next t) : Completes i s t ∨ Faults i s t := by
  obtain ⟨u, hu, ends⟩ := exec_completes_or_faults i s
  obtain rfl : u = t := by simpa [hu] using h
  exact ends

/-- A part that neither the instruction's row of R39 nor a fault writes is kept. -/
theorem same_of_exec {p : Part} (h : exec i s = .next t) (row : p ∉ i.writes)
    (record : p ∉ [Part.pc, .runState, .faultCause, .faultPc]) : p.same s t := by
  rcases completes_or_faults_of_exec h with ⟨frame, -, -⟩ | ⟨c, -, -, -, -, -, frame⟩
  · exact frame p row
  · exact frame p record

/-- A register that the instruction does not name as written is kept. -/
theorem reg_of_exec {q : Reg} (h : exec i s = .next t) (dest : ¬ i.writesReg q) : t.reg q = s.reg q := by
  rcases completes_or_faults_of_exec h with ⟨-, regs, -⟩ | ⟨c, -, -, -, -, -, frame⟩
  · exact regs q dest
  · exact frame .regs (by simp) q

/-- A byte that the instruction does not store to is kept. -/
theorem byteAt_of_exec {a : Nat} (h : exec i s = .next t) (other : ¬ i.stores s a) : t.byteAt a = s.byteAt a := by
  rcases completes_or_faults_of_exec h with ⟨-, -, bytes⟩ | ⟨c, -, -, -, -, -, frame⟩
  · exact bytes a other
  · exact frame .mem (by simp) a

theorem eq_raise_of_raises (h : exec i s = .next t) (raises : Raises i s) : ∃ r, t = s.raise r := by
  obtain ⟨r, -, e⟩ := raises
  exact ⟨r, Host.Outcome.next.inj (h.symm.trans e)⟩

/-- An instruction changes a byte only where its data check has passed. -/
theorem stored_byte_inside {a : Nat} (h : exec i s = .next t) (store : i.stores s a) (ne : t.byteAt a ≠ s.byteAt a) :
    a ≤ 0xFFF := by
  have completes : ¬ Raises i s := fun raises => by
    obtain ⟨r, rfl⟩ := eq_raise_of_raises h raises
    exact ne rfl
  cases i with
  | ldB x =>
    obtain ⟨inside, -⟩ := (exec_ldB_cases x s).resolve_left completes
    obtain ⟨k, hk, rfl⟩ := store
    unfold State.dataAddr; omega
  | stRegs x =>
    obtain ⟨inside, -⟩ := (exec_stRegs_cases x s).resolve_left completes
    obtain ⟨k, hk, rfl⟩ := store
    unfold State.dataAddr; omega
  | _ => exact store.elim

/-! ## The rows of the tables that write one given part -/

theorem waits_of_writes_runState (h : .runState ∈ i.writes) : ∃ x, i = .ldVxK x := by
  cases i <;> simp_all [Instr.writes]

theorem draws_of_writes_disp (h : .disp ∈ i.writes) : i = .cls ∨ ∃ x y n, i = .drw x y n := by
  cases i <;> simp_all [Instr.writes]

theorem calls_of_writes_stack (h : .stack ∈ i.writes) : ∃ nnn, i = .call nnn := by
  cases i <;> simp_all [Instr.writes]

theorem faultRecord_not_mem_writes (i : Instr) : .faultCause ∉ i.writes ∧ .faultPc ∉ i.writes := by
  cases i <;> simp [Instr.writes]

theorem none_not_mem_faults (i : Instr) : .none ∉ i.faults := by
  cases i <;> simp [Instr.faults]

/-! ## `run_state` and the fault record behind an execution -/

/-- An instruction that completes leaves `run_state`, but for the wait of `Fx0A`. -/
theorem runState_of_completes (h : exec i s = .next t) (ends : Completes i s t) :
    t.runState = s.runState ∨ (t.runState = .waitKey ∧ ∃ x, i = .ldVxK x) := by
  by_cases w : .runState ∈ i.writes
  · obtain ⟨x, rfl⟩ := waits_of_writes_runState w
    obtain rfl : s.setRun .waitKey = t := Host.Outcome.next.inj h
    exact .inr ⟨rfl, x, rfl⟩
  · exact .inl (ends.1 .runState w)

theorem runState_of_exec (h : exec i s = .next t) (run : s.runState = .running) :
    t.runState = .running ∨ t.runState = .faulted ∨ (t.runState = .waitKey ∧ ∃ x, i = .ldVxK x) := by
  rcases completes_or_faults_of_exec h with ends | ⟨c, -, faulted, -⟩
  · exact (runState_of_completes h ends).imp (·.trans run) .inr
  · exact .inr (.inl faulted)

theorem faultRecordRight_of_exec (h : exec i s = .next t) (run : s.runState = .running) (record : s.faultRecordRight) :
    t.faultRecordRight := by
  obtain ⟨noCause, noPc⟩ := record.2 (by simp [run])
  rcases completes_or_faults_of_exec h with ends | ⟨c, listed, faulted, cause, faultPc, pc, -⟩
  · have notFaulted : t.runState ≠ .faulted := by
      rcases runState_of_completes h ends with e | ⟨e, -⟩ <;> simp [e, run]
    obtain ⟨wc, wp⟩ := faultRecord_not_mem_writes i
    exact ⟨(absurd · notFaulted), fun _ => ⟨(ends.1 .faultCause wc).trans noCause, (ends.1 .faultPc wp).trans noPc⟩⟩
  · have recorded : t.faultCause ≠ .none := cause ▸ fun none => none_not_mem_faults i (none ▸ listed)
    exact ⟨fun _ => ⟨recorded, faultPc.trans pc.symm⟩, (absurd faulted ·)⟩

/-! ## `I`, `pc` and the stack behind an execution -/

theorem zext16_toNat (nnn : Addr) : (zext16 nnn).toNat = nnn.toNat := by
  have := nnn.isLt
  simp [zext16]; omega

/-- The digit is not masked, so the largest glyph address is that of 0xFF (R202). -/
theorem glyphAddr_le (b : Byte) : (glyphAddr b).toNat ≤ 0x54B := by
  have : b.toNat < 256 := b.isLt
  rw [glyphAddr, BitVec.toNat_ofNat, Nat.mod_eq_of_lt] <;> omega

/-- The rows that write `I` keep it a 12-bit address (R24): an address operand, a masked sum, a glyph below 0x54C. -/
theorem indexInRange_of_exec (h : exec i s = .next t) (range : s.indexInRange) : t.indexInRange := by
  unfold State.indexInRange at *
  by_cases w : .index ∈ i.writes
  · cases i with
    | ldI nnn =>
      obtain rfl : s.setIndex (zext16 nnn) = t := Host.Outcome.next.inj h
      have := nnn.isLt
      rw [State.setIndex_index, zext16_toNat]; omega
    | addI x =>
      obtain ⟨s1, a, rfl⟩ : ∃ s1 a, State.setIndex s1 (a &&& 0x0FFF) = t := ⟨_, _, Host.Outcome.next.inj h⟩
      rw [State.setIndex_index, BitVec.toNat_and]
      exact Nat.and_le_right
    | ldF x =>
      obtain rfl : s.setIndex (glyphAddr (s.reg x)) = t := Host.Outcome.next.inj h
      exact (glyphAddr_le _).trans (by decide)
    | _ => simp [Instr.writes] at w
  · rwa [same_of_exec h w (by simp)]

/-- A skip goes at most 2 beyond the base advance. -/
theorem skipIf_pc_le {c : Bool} (le : s.pc.toNat ≤ 0x1000) : (s.skipIf c).pc.toNat ≤ 0x10FE := by
  rw [State.skipIf_eq, State.setPc_pc]
  split <;> bv_omega

/-- A jump goes at most 0xFF beyond an address operand. -/
theorem jumpTarget_le (nnn : Addr) (b : Byte) : (zext16 nnn + b.setWidth 16).toNat ≤ 0x10FE := by
  have := nnn.isLt
  have := b.isLt
  rw [BitVec.toNat_add, zext16_toNat, BitVec.toNat_setWidth]; omega

theorem zext16_le (nnn : Addr) : (zext16 nnn).toNat ≤ 0x10FE := by
  have := nnn.isLt
  rw [zext16_toNat]; omega

theorem pop_le {a : Word} (e : s.pop = some (a, u)) (stack : ∀ k : Fin 16, s.stack[k].toNat ≤ 0x10FE) :
    a.toNat ≤ 0x10FE ∧ u.pc = s.pc := by
  obtain ⟨_, rfl, rfl⟩ := s.pop_eq_some.1 e
  exact ⟨stack ⟨s.sp.val - 1, by omega⟩, rfl⟩

/-- `pc` behind an instruction at an address up to 0xFFE (R26): undone by a fault, a skip, a target, or a return address. -/
theorem pc_le_of_exec (h : exec i s = .next t) (two : 2 ≤ s.pc.toNat) (le : s.pc.toNat ≤ 0x1000)
    (stack : ∀ k : Fin 16, s.stack[k].toNat ≤ 0x10FE) : t.pc.toNat ≤ 0x10FE := by
  have ends {u : State} (e : exec i s = .next u) (leU : u.pc.toNat ≤ 0x10FE) : t.pc.toNat ≤ 0x10FE :=
    Host.Outcome.next.inj (h.symm.trans e) ▸ leU
  by_cases raises : Raises i s
  · obtain ⟨r, rfl⟩ := eq_raise_of_raises h raises
    rw [State.raise_eq]; bv_omega
  by_cases w : .pc ∈ i.writes
  · cases i with
    | jp nnn => exact ends rfl (zext16_le nnn)
    | jpV0 nnn => exact ends rfl (jumpTarget_le nnn _)
    | seImm | sneImm | seReg | sneReg => exact ends rfl (skipIf_pc_le le)
    | skp x =>
      obtain ⟨c, e⟩ := (exec_skp_cases x s).resolve_left raises
      exact ends e (skipIf_pc_le le)
    | sknp x =>
      obtain ⟨c, e⟩ := (exec_sknp_cases x s).resolve_left raises
      exact ends e (skipIf_pc_le le)
    | call nnn =>
      obtain ⟨u, -, e⟩ := (exec_call_cases nnn s).resolve_left raises
      exact ends e (zext16_le nnn)
    | ret =>
      obtain ⟨a, u, popped, e | e⟩ := (exec_ret_cases s).resolve_left raises
      · exact ends e ((pop_le popped stack).2 ▸ le.trans (by decide))
      · exact ends e (pop_le popped stack).1
    | _ => simp [Instr.writes] at w
  · obtain ⟨u, e, frame, -, -⟩ := (raises_or_completes i s).resolve_left raises
    exact ends e (frame .pc w ▸ le.trans (by decide))

/-- Only `2nnn` writes a return address, the one behind itself (R152). -/
theorem stack_le_of_exec (h : exec i s = .next t) (le : s.pc.toNat ≤ 0x1000)
    (stack : ∀ k : Fin 16, s.stack[k].toNat ≤ 0x10FE) : ∀ k : Fin 16, t.stack[k].toNat ≤ 0x10FE := by
  by_cases w : .stack ∈ i.writes
  · obtain ⟨nnn, rfl⟩ := calls_of_writes_stack w
    by_cases raises : Raises (.call nnn) s
    · obtain ⟨r, rfl⟩ := eq_raise_of_raises h raises
      exact stack
    obtain ⟨u, pushed, e⟩ := (exec_call_cases nnn s).resolve_left raises
    obtain rfl : u.setPc (zext16 nnn) = t := Host.Outcome.next.inj (e.symm.trans h)
    obtain ⟨_, rfl⟩ := s.push_eq_some.1 pushed
    intro k
    have := stack k
    simp only [State.setPc_stack, Fin.getElem_fin, Vector.getElem_set] at this ⊢
    split <;> omega
  · rwa [same_of_exec h w (by simp)]

/-! ## `VF` -/

/-- The instructions that write `VF`: the seven of R22, and those that may name it as their destination. -/
theorem writesReg_VF (h : i.writesReg VF) :
    (∃ x y, i = .addReg x y ∨ i = .sub x y ∨ i = .shr x y ∨ i = .subn x y ∨ i = .shl x y) ∨ (∃ x, i = .addI x) ∨
    (∃ x y n, i = .drw x y n) ∨
    (∃ nn, i = .ldImm VF nn ∨ i = .addImm VF nn ∨ i = .rnd VF nn) ∨
    (∃ y, i = .ldReg VF y ∨ i = .orReg VF y ∨ i = .andReg VF y ∨ i = .xorReg VF y) ∨
    i = .ldVxDt VF ∨ i = .ldRegs VF := by
  cases i with
  | addReg | sub | shr | subn | shl | addI | drw => simp
  | ldImm | addImm | rnd | ldReg | orReg | andReg | xorReg | ldVxDt => simpa [Instr.writesReg, eq_comm] using h
  | ldRegs x =>
    have last : x = VF := le_antisymm (Fin.le_last x) h
    simp [last]
  | _ => exact h.elim

/-- Settles O36: `VF` is kept where R39's table does not name it. -/
theorem flagWritersAreSeven : Obligations.FlagWritersAreSeven := fun _ _ _ h changed =>
  writesReg_VF (Classical.not_not.1 fun dest => changed (reg_of_exec h dest))

end Sys2Proof.Machine
end

section
/-! PROOFS. What one step can do, case by case, and the invariants and writers that follow from it. -/

namespace Sys2Proof.Machine

variable {s t u : State} {i : Instr}

/-! ## Frames of the phases -/

theorem unchangedBut_beginStep (s : State) : UnchangedBut [.frameReady] s s.beginStep := by
  intro p hp; cases p <;> simp_all [Part.same]

theorem unchangedBut_endStep (s : State) : UnchangedBut [.script, .time] s s.endStep := by
  intro p hp; cases p <;> simp_all [Part.same]

theorem unchangedBut_setPending (s : State) (es : List HostEvent) : UnchangedBut [.pending] s (s.setPending es) := by
  intro p hp; cases p <;> simp_all [Part.same]

theorem unchangedBut_behindTK (s : State) :
    UnchangedBut [.dt, .st, .key, .pending, .frameReady, .runState] s s.behindTK := by
  obtain ⟨k, e⟩ := s.behindTK_eq
  rw [e]
  intro p hp; cases p <;> simp_all [Part.same, State.reg, State.byteAt]

theorem unchangedBut_raiseAt_pc (s : State) (r : FaultReport) :
    UnchangedBut [.runState, .faultCause, .faultPc] s (s.raiseAt s.pc r) := by
  intro p hp; cases p <;> simp_all [Part.same]

theorem unchangedBut_retire (s : State) (w : Word) : UnchangedBut [.ir, .frameReady] s (s.retire w) := by
  by_cases f : s.runState = .faulted
  · rw [s.retire_faulted w f]
    intro p hp; cases p <;> simp_all [Part.same, State.reg, State.byteAt]
  · rw [s.retire_of_not_faulted w f]
    intro p hp; cases p <;> simp_all [Part.same, State.reg, State.byteAt]

theorem unchangedBut_idle (s : State) : UnchangedBut [.mem, .pending, .runState] s s.idle := by
  rw [s.idle_eq]
  intro p hp; cases p <;> simp_all [Part.same, State.reg]

theorem unchangedBut_wakeOn (s : State) (e : HostEvent) : UnchangedBut [.key, .regs, .runState] s (s.wakeOn e) := by
  intro p hp; cases e <;> cases p <;> simp_all [Part.same, State.wakeOn]

theorem unchangedBut_wake (s : State) : UnchangedBut [.pending, .key, .regs, .runState] s s.wake := by
  unfold State.wake
  split
  · exact (unchangedBut_refl s).mono nofun
  · exact (unchangedBut_setPending s _).trans (unchangedBut_wakeOn _ _)

/-! ## One step -/

/-- From `s` the slot executes `i`, which leaves `u`, and ends in `t` (R123 to R129). -/
structure Executes (s : State) (i : Instr) (u t : State) : Prop where
  running : s.runState = .running
  quitFree : s.quitFree
  fetched : s.pc.toNat ≤ 0xFFE
  decoded : decodeWord s.wordAtPc = .ok i
  executed : exec i s.behindTK.advance = .next u
  retired : t = (u.retire s.wordAtPc).endStep

/-- The ways a step leads from `s` to `t`: one by the reset line, and one or more in each run state (R34). -/
inductive StepCase (s t : State) : Prop
  | reset (on : s.input.reset = true) (eq : t = s.assertReset.endStep)
  | idle (off : s.input.reset = false) (run : s.runState = .idle) (eq : t = s.beginStep.idle.endStep)
  | quit (off : s.input.reset = false) (run : s.runState = .running) (quit : HostEvent.quit ∈ s.arrived)
      (eq : t = s.behindTK.endStep)
  | fetchOob (off : s.input.reset = false) (run : s.runState = .running) (quitFree : s.quitFree) (beyond : 0xFFF ≤ s.pc.toNat)
      (eq : t = (s.behindTK.raiseAt s.behindTK.pc ⟨.fetchOob, s.behindTK.pc.toNat⟩).endStep)
  | instr (off : s.input.reset = false) {i : Instr} {u : State} (slot : Executes s i u t)
  | wait (off : s.input.reset = false) (run : s.runState = .waitKey) (eq : t = s.beginStep.wake.endStep)
  | halted (off : s.input.reset = false) (run : s.runState = .faulted ∨ s.runState = .stopped)
      (eq : t = s.beginStep.halted.endStep)

theorem State.behindTK_wordAtPc (s : State) : s.behindTK.wordAtPc = s.wordAtPc := by
  simp only [State.wordAtPc, State.behindTK_pc, State.behindTK_byteAt]

theorem step_slot_cases (h : step s = .next t) (off : s.input.reset = false) (run : s.runState = .running)
    (q : s.quitFree) : StepCase s t := by
  rw [step_of_slot s off run q] at h
  by_cases p : s.pc.toNat ≤ 0xFFE
  · obtain ⟨i, d⟩ := decodeWord_total s.wordAtPc
    rw [State.phaseX_instr _ (by rwa [s.behindTK_pc]) (by rwa [s.behindTK_wordAtPc]), s.behindTK_wordAtPc] at h
    obtain ⟨v, hv, rfl⟩ := onNext_eq_next.1 h
    obtain ⟨u, hu, rfl⟩ := onNext_eq_next.1 hv
    exact .instr off ⟨run, q, p, d, hu, rfl⟩
  · rw [State.phaseX_fetchOob _ (by rw [s.behindTK_pc]; omega)] at h
    exact .fetchOob off run q (by omega) (Host.Outcome.next.inj h).symm

/-- What one step can do, said once: later proofs split on it. -/
theorem step_cases (h : step s = .next t) : StepCase s t := by
  by_cases on : s.input.reset = true
  · exact .reset on (Host.Outcome.next.inj (h.symm.trans (step_of_reset s on)))
  have off : s.input.reset = false := by simpa using on
  cases run : s.runState with
  | idle => exact .idle off run (Host.Outcome.next.inj (h.symm.trans (step_of_idle s off run)))
  | waitKey => exact .wait off run (Host.Outcome.next.inj (h.symm.trans (step_of_waitKey s off run)))
  | faulted => exact .halted off (.inl run) (Host.Outcome.next.inj (h.symm.trans (step_of_halted s off (.inl run))))
  | stopped => exact .halted off (.inr run) (Host.Outcome.next.inj (h.symm.trans (step_of_halted s off (.inr run))))
  | running =>
    by_cases q : HostEvent.quit ∈ s.arrived
    · exact .quit off run q (Host.Outcome.next.inj (h.symm.trans (step_of_quit s off run q)))
    · exact step_slot_cases h off run q

/-! ## What a slot keeps around its instruction -/

/-- The parts that the engine writes itself, in a step without reset and outside IDLE. -/
def engineParts : List Part :=
  [.regs, .key, .dt, .st, .ir, .runState, .faultCause, .faultPc, .pending, .frameReady, .script, .time]

theorem unchangedBut_executing (s : State) :
    UnchangedBut [.dt, .st, .key, .pending, .frameReady, .runState, .pc] s s.behindTK.advance :=
  (unchangedBut_behindTK s).trans (unchangedBut_setPc _ _)

theorem executing_pc (s : State) : s.behindTK.advance.pc = s.pc + 2 := congrArg (· + 2) s.behindTK_pc

theorem executing_byteAt (s : State) (a : Nat) : s.behindTK.advance.byteAt a = s.byteAt a := s.behindTK_byteAt a

theorem executing_dataAddr (s : State) (k : Nat) : s.behindTK.advance.dataAddr k = s.index.toNat + k := by
  rw [State.dataAddr, show s.behindTK.advance.index = s.index from unchangedBut_executing s .index (by decide)]

theorem Executes.executing_runState (h : Executes s i u t) : s.behindTK.advance.runState = .running :=
  s.behindTK_running h.running h.quitFree

theorem Executes.unchangedBut_end (h : Executes s i u t) : UnchangedBut [.ir, .frameReady, .script, .time] u t :=
  h.retired ▸ (unchangedBut_retire u _).trans (unchangedBut_endStep _)

/-- A slot keeps what neither the engine nor the row of its instruction writes. -/
theorem Executes.same {p : Part} (h : Executes s i u t) (row : p ∉ i.writes) (engine : p ∉ .pc :: engineParts) :
    p.same s t := by
  have executing := (unchangedBut_executing s).mono (l' := .pc :: engineParts) (by decide) p engine
  have executed := same_of_exec h.executed row fun m =>
    engine ((by decide : ∀ q ∈ [Part.pc, .runState, .faultCause, .faultPc], q ∈ .pc :: engineParts) p m)
  have ended := h.unchangedBut_end.mono (l' := .pc :: engineParts) (by decide) p engine
  exact Part.same_trans (Part.same_trans executing executed) ended

theorem Executes.byteAt_same {a : Nat} (h : Executes s i u t) (other : ¬ i.stores s.behindTK.advance a) :
    t.byteAt a = s.byteAt a := by
  rw [h.unchangedBut_end .mem (by decide) a, byteAt_of_exec h.executed other, executing_byteAt]

/-! ## Who changes a part -/

theorem unchangedBut_idle_step (s : State) :
    UnchangedBut [.frameReady, .mem, .pending, .runState, .script, .time] s s.beginStep.idle.endStep :=
  ((unchangedBut_beginStep s).trans (unchangedBut_idle _)).trans (unchangedBut_endStep _)

theorem unchangedBut_wake_step (s : State) :
    UnchangedBut [.frameReady, .pending, .key, .regs, .runState, .script, .time] s s.beginStep.wake.endStep :=
  ((unchangedBut_beginStep s).trans (unchangedBut_wake _)).trans (unchangedBut_endStep _)

/-- A step without reset is a turn of the load port, an instruction, or the engine's own work. -/
theorem step_idle_or_executes_or_engine (h : step s = .next t) (off : s.input.reset = false) :
    (s.runState = .idle ∧ t = s.beginStep.idle.endStep) ∨ (∃ i u, Executes s i u t) ∨ UnchangedBut engineParts s t := by
  cases step_cases h with
  | reset on => simp [on] at off
  | idle _ run eq => exact .inl ⟨run, eq⟩
  | instr _ slot => exact .inr (.inl ⟨_, _, slot⟩)
  | quit _ _ _ eq =>
    exact .inr (.inr (eq ▸ ((unchangedBut_behindTK s).trans (unchangedBut_endStep _)).mono (by decide)))
  | fetchOob _ _ _ _ eq =>
    exact .inr (.inr (eq ▸ (((unchangedBut_behindTK s).trans (unchangedBut_raiseAt_pc _ _)).trans
      (unchangedBut_endStep _)).mono (by decide)))
  | wait _ _ eq => exact .inr (.inr (eq ▸ (unchangedBut_wake_step s).mono (by decide)))
  | halted _ _ eq =>
    exact .inr (.inr (eq ▸ (((unchangedBut_beginStep s).trans (unchangedBut_setPending _ _)).trans
      (unchangedBut_endStep _)).mono (by decide)))

/-- `I`, `pc`, the stack and the display change, but for reset, only under an instruction. -/
theorem step_executes_or_unchangedBut (h : step s = .next t) (off : s.input.reset = false) :
    (∃ i u, Executes s i u t) ∨ UnchangedBut (.mem :: engineParts) s t := by
  rcases step_idle_or_executes_or_engine h off with ⟨-, rfl⟩ | slot | frame
  · exact .inr ((unchangedBut_idle_step s).mono (by decide))
  · exact .inl slot
  · exact .inr (frame.mono (by decide))

theorem eq_of_step_reset (h : step s = .next t) (on : s.input.reset = true) : t = s.assertReset.endStep :=
  Host.Outcome.next.inj (h.symm.trans (step_of_reset s on))

/-- Settles O52: an instruction that changes the display has it in its row. -/
theorem displayWriters : Obligations.DisplayWriters := by
  intro s t h off changed
  rcases step_executes_or_unchangedBut h off with ⟨i, u, slot⟩ | frame
  · refine ⟨slot.running, ?_⟩
    have w : .disp ∈ i.writes := Classical.not_not.1 fun row => changed (slot.same (p := .disp) row (by decide))
    rw [slot.decoded]
    exact (draws_of_writes_disp w).imp (congrArg _) fun ⟨x, y, n, e⟩ => ⟨x, y, n, congrArg _ e⟩
  · exact absurd (frame .disp (by decide)) changed

/-- The load port leaves a byte that no load names. -/
theorem byteAt_idle {a : Nat} (h : ∀ l ∈ s.input.loads, l.1.toNat ≠ a) : s.idle.byteAt a = s.byteAt a := by
  have loads (ls : List (Addr × Byte)) (v : State) (other : ∀ l ∈ ls, l.1.toNat ≠ a) :
      (ls.foldl (fun t l => t.storeByte l.1.toNat l.2) v).byteAt a = v.byteAt a := by
    induction ls generalizing v with
    | nil => rfl
    | cons l ls ih =>
      rw [List.foldl_cons, ih _ fun q hq => other q (List.mem_cons_of_mem _ hq),
        v.byteAt_storeByte_other (other l List.mem_cons_self).symm]
  have port : s.idle.byteAt a = (s.input.loads.foldl (fun t l => t.storeByte l.1.toNat l.2) (s.setPending [])).byteAt a := by
    unfold State.idle
    split <;> rfl
  rw [port, loads _ _ h, State.setPending_byteAt]

/-- Only `Fx33` and `Fx55` store, from `I` up to `I + 2` or `I + x`. -/
theorem stores_cases {a : Nat} (h : i.stores s a) :
    ∃ x : Reg, (i = .ldB x ∧ ∃ k ≤ 2, a = s.dataAddr k) ∨ (i = .stRegs x ∧ ∃ k ≤ x.val, a = s.dataAddr k) := by
  cases i with
  | ldB x =>
    obtain ⟨k, hk, e⟩ := h
    exact ⟨x, .inl ⟨rfl, k, by omega, e⟩⟩
  | stRegs x => exact ⟨x, .inr ⟨rfl, h⟩⟩
  | _ => exact h.elim

/-- Settles O51: the load port writes the addresses it names, an instruction the addresses it stores to. -/
theorem memoryWriters : Obligations.MemoryWriters := by
  intro s t a h off changed
  rcases step_idle_or_executes_or_engine h off with ⟨run, rfl⟩ | ⟨i, u, slot⟩ | frame
  · refine .inl ⟨run, ?_⟩
    by_contra none
    exact changed (byteAt_idle (s := s.beginStep) fun l hl e => none ⟨l, hl, e⟩)
  · have store : i.stores s.behindTK.advance a := Classical.not_not.1 fun other => changed (slot.byteAt_same other)
    have inside : a ≤ 0xFFF := stored_byte_inside slot.executed store fun same =>
      changed ((slot.unchangedBut_end .mem (by decide) a).trans (same.trans (executing_byteAt s a)))
    obtain ⟨x, ⟨rfl, k, hk, e⟩ | ⟨rfl, k, hk, e⟩⟩ := stores_cases store <;> rw [executing_dataAddr] at e
    · exact .inr ⟨slot.running, slot.quitFree, by omega, inside, x, .inl ⟨slot.decoded, by omega⟩⟩
    · exact .inr ⟨slot.running, slot.quitFree, by omega, inside, x, .inr ⟨slot.decoded, by omega⟩⟩
  · exact absurd (frame .mem (by decide) a) changed

/-! ## The invariants -/

/-- Settles O60. -/
theorem resetMeetsInvariants : Obligations.ResetMeetsInvariants :=
  ⟨show (0 : Nat) ≤ 0xFFF by decide, ⟨by decide, by decide⟩, Memory.nil_wf, ⟨nofun, fun _ => ⟨rfl, rfl⟩⟩, nofun⟩

theorem indexInRange_congr (same : Part.index.same s t) (range : s.indexInRange) : t.indexInRange := by
  unfold State.indexInRange
  rwa [show t.index = s.index from same]

/-- Settles O55: only an instruction changes `I`, and its row keeps it in range. -/
theorem indexStaysTwelveBits : Obligations.IndexStaysTwelveBits := by
  intro s t range h
  cases on : s.input.reset with
  | true => rw [eq_of_step_reset h on]; exact resetMeetsInvariants.1
  | false =>
    rcases step_executes_or_unchangedBut h on with ⟨i, u, slot⟩ | frame
    · have before := indexInRange_congr (unchangedBut_executing s .index (by decide)) range
      have behind := indexInRange_of_exec slot.executed before
      exact indexInRange_congr (slot.unchangedBut_end .index (by decide)) behind
    · exact indexInRange_congr (frame .index (by decide)) range

theorem pcInRange_congr (pc : Part.pc.same s t) (stack : Part.stack.same s t) (range : s.pcInRange) : t.pcInRange := by
  unfold State.pcInRange
  rwa [show t.pc = s.pc from pc, show t.stack = s.stack from stack]

/-- An instruction is fetched at 0xFFE at most, so that it executes with `pc` at most 0x1000. -/
theorem Executes.pcInRange (h : Executes s i u t) (range : s.pcInRange) : u.pcInRange := by
  have fetched := h.fetched
  have two : 2 ≤ s.behindTK.advance.pc.toNat := by rw [executing_pc]; bv_omega
  have le : s.behindTK.advance.pc.toNat ≤ 0x1000 := by rw [executing_pc]; bv_omega
  have stack : ∀ k : Fin 16, s.behindTK.advance.stack[k].toNat ≤ 0x10FE := by
    rw [show s.behindTK.advance.stack = s.stack from unchangedBut_executing s .stack (by decide)]
    exact range.2
  exact ⟨pc_le_of_exec h.executed two le stack, stack_le_of_exec h.executed le stack⟩

/-- Settles O56: only an instruction moves `pc` or writes the stack. -/
theorem pcStaysBelowBound : Obligations.PcStaysBelowBound := by
  intro s t range h
  cases on : s.input.reset with
  | true => rw [eq_of_step_reset h on]; exact resetMeetsInvariants.2.1
  | false =>
    rcases step_executes_or_unchangedBut h on with ⟨i, u, slot⟩ | frame
    · exact pcInRange_congr (slot.unchangedBut_end .pc (by decide)) (slot.unchangedBut_end .stack (by decide))
        (slot.pcInRange range)
    · exact pcInRange_congr (frame .pc (by decide)) (frame .stack (by decide)) range

/-! ## `run_state` -/

theorem State.idle_runState (run : s.runState = .idle) :
    s.idle.runState = if s.input.start then .running else .idle := by rw [s.idle_eq, ← run]

theorem State.behindTK_stopped (q : HostEvent.quit ∈ s.arrived) : s.behindTK.runState = .stopped := by
  obtain ⟨k, e⟩ := s.behindTK_eq
  rw [e]; exact if_pos q

/-- Settles O50: the run state behind each case of a step. -/
theorem runStateTransitions : Obligations.RunStateTransitions := by
  intro s t h
  cases step_cases h with
  | reset on eq => exact ⟨fun _ => eq ▸ rfl, by simp [on]⟩
  | idle off run eq =>
    have start : t.runState = if s.input.start then .running else .idle := eq ▸ State.idle_runState (s := s.beginStep) run
    simp [off, run, start]
  | quit off run q eq =>
    have stopped : t.runState = .stopped := eq ▸ State.behindTK_stopped q
    simp [off, run, stopped, State.quitFree, q]
  | fetchOob off run q _ eq =>
    have faulted : t.runState = .faulted := eq ▸ rfl
    simp [off, run, faulted, show HostEvent.quit ∉ s.arrived from q]
  | @instr off i _ slot =>
    simp only [off, slot.running]
    have ends := runState_of_exec slot.executed slot.executing_runState
    rw [← show t.runState = _ from slot.unchangedBut_end .runState (by decide)] at ends
    have arm : (∃ x, i = .ldVxK x) → ∃ x, decodeWord s.wordAtPc = .ok (.ldVxK x) :=
      fun ⟨x, e⟩ => ⟨x, e ▸ slot.decoded⟩
    refine ⟨nofun, fun _ => ⟨nofun, fun _ q => absurd q slot.quitFree, fun _ _ => ?_, nofun, nofun, nofun⟩⟩
    exact ends.imp_right (Or.imp_right (And.imp_right arm))
  | wait off run eq =>
    have woken : t.runState = s.beginStep.wake.runState := eq ▸ rfl
    simp only [off, run]
    refine ⟨nofun, fun _ => ⟨nofun, nofun, nofun, fun _ => ?_, nofun, nofun⟩⟩
    rw [woken, State.wake, show s.beginStep.arrived = s.arrived from rfl]
    match s.arrived with
    | [] => exact run
    | .keyDown _ :: _ => rfl
    | .keyUp _ :: _ => exact run
    | .quit :: _ => rfl
  | halted off run eq =>
    have same : t.runState = s.runState := eq ▸ rfl
    rcases run with run | run <;> simp [off, run, same]

/-! ## The fault record -/

theorem faultRecordRight_congr (run : Part.runState.same s t) (cause : Part.faultCause.same s t)
    (faultPc : Part.faultPc.same s t) (pc : Part.pc.same s t) (record : s.faultRecordRight) : t.faultRecordRight := by
  unfold State.faultRecordRight
  rwa [show t.runState = _ from run, show t.faultCause = _ from cause, show t.faultPc = _ from faultPc,
    show t.pc = _ from pc]

/-- Outside FAULTED the record is empty, and stays so where nothing is raised. -/
theorem faultRecordRight_of_not_faulted {l : List Part} (frame : UnchangedBut l s t) (before : s.runState ≠ .faulted)
    (behind : t.runState ≠ .faulted) (record : s.faultRecordRight)
    (kept : .faultCause ∉ l ∧ .faultPc ∉ l := by decide) : t.faultRecordRight := by
  obtain ⟨noCause, noPc⟩ := record.2 before
  exact ⟨(absurd · behind), fun _ => ⟨(frame .faultCause kept.1).trans noCause, (frame .faultPc kept.2).trans noPc⟩⟩

theorem Executes.faultRecordRight (h : Executes s i u t) (record : s.faultRecordRight) : t.faultRecordRight := by
  have executing := faultRecordRight_of_not_faulted (unchangedBut_executing s) (by simp [h.running])
    (by simp [h.executing_runState]) record
  have ended := h.unchangedBut_end
  exact faultRecordRight_congr (ended .runState (by decide)) (ended .faultCause (by decide)) (ended .faultPc (by decide))
    (ended .pc (by decide)) (faultRecordRight_of_exec h.executed h.executing_runState executing)

/-- Settles O58: a fault fills the record, nothing else touches it, and only reset leads out of FAULTED. -/
theorem faultRecordStaysRight : Obligations.FaultRecordStaysRight := by
  intro s t record h
  obtain ⟨-, transitions⟩ := runStateTransitions s t h
  obtain ⟨-, -, -, recordAtReset, -⟩ := resetMeetsInvariants
  cases step_cases h with
  | reset on eq => exact ⟨eq ▸ recordAtReset, by simp [on]⟩
  | idle off run eq =>
    obtain ⟨started, -⟩ := transitions off
    have behind : t.runState ≠ .faulted := by rw [started run]; split <;> simp
    exact ⟨faultRecordRight_of_not_faulted (eq ▸ unchangedBut_idle_step s) (by simp [run]) behind record, by simp [run]⟩
  | quit off run q eq =>
    obtain ⟨-, stopped, -⟩ := transitions off
    have behind : t.runState ≠ .faulted := by simp [stopped run q]
    have frame := (unchangedBut_behindTK s).trans (unchangedBut_endStep _)
    exact ⟨faultRecordRight_of_not_faulted (eq ▸ frame) (by simp [run]) behind record, by simp [run]⟩
  | fetchOob off run q _ eq => exact ⟨eq ▸ ⟨fun _ => ⟨nofun, rfl⟩, (absurd rfl ·)⟩, by simp [run]⟩
  | instr off slot => exact ⟨slot.faultRecordRight record, by simp [slot.running]⟩
  | wait off run eq =>
    obtain ⟨-, -, -, woken, -⟩ := transitions off
    have behind : t.runState ≠ .faulted := by rw [woken run]; split <;> simp
    exact ⟨faultRecordRight_of_not_faulted (eq ▸ unchangedBut_wake_step s) (by simp [run]) behind record, by simp [run]⟩
  | halted off run eq =>
    exact ⟨eq ▸ faultRecordRight_congr (s := s) rfl rfl rfl rfl record, fun _ _ => eq ▸ ⟨rfl, rfl⟩⟩

/-! ## The wait -/

theorem decodeGroupF_eq_ldVxK {x y : Reg} {nn : Byte} (h : decodeGroupF x nn = .ldVxK y) : nn.toNat = 0x0A ∧ x = y := by
  unfold decodeGroupF at h
  split at h <;> simp_all

/-- Only group F, with selector 0A, decodes to an `Fx0A` (R93). -/
theorem fields_of_decode_ldVxK {w : Word} {x : Reg} (h : decodeWord w = .ok (.ldVxK x)) :
    fieldGroup w = 0xF ∧ (fieldNN w).toNat = 0x0A ∧ fieldX w = x := by
  unfold decodeWord at h
  split at h
  case h_1 =>
    unfold decodeGroup0 at h
    split at h
    · cases h
    · split at h <;> cases h
  case h_9 => unfold decodeGroup8 at h; split at h <;> cases h
  case h_15 => unfold decodeGroupE at h; split at h <;> cases h
  case h_16 group => exact ⟨group, decodeGroupF_eq_ldVxK (Except.ok.inj h)⟩
  all_goals cases h

/-- The decoder reads an `Fx0A` from its own word only. -/
theorem encode_of_decode_ldVxK {w : Word} {x : Reg} (h : decodeWord w = .ok (.ldVxK x)) : encode (.ldVxK x) = w := by
  obtain ⟨group, nn, rfl⟩ := fields_of_decode_ldVxK h
  rw [fieldGroup_eq] at group
  rw [fieldNN_toNat] at nn
  apply BitVec.eq_of_toNat_eq
  rw [encode, wordXNN_toNat (by decide), fieldX_val, show (0x0A : Byte).toNat = 0x0A from rfl]
  omega

/-- Settles O59: only an `Fx0A` begins a wait, with its own word in `IR`, and the wait leaves `IR`. -/
theorem waitHoldsItsWord : Obligations.WaitHoldsItsWord := by
  intro s t holds h waits
  obtain ⟨idle, transitions⟩ := runStateTransitions s t h
  cases step_cases h with
  | reset on eq => simp [idle on] at waits
  | idle off run eq =>
    obtain ⟨started, -⟩ := transitions off
    rw [started run] at waits; split at waits <;> cases waits
  | quit off run q eq =>
    obtain ⟨-, stopped, -⟩ := transitions off
    simp [stopped run q] at waits
  | fetchOob off run q _ eq => rw [eq] at waits; cases waits
  | @instr off i u slot =>
    obtain ⟨-, -, ran, -⟩ := transitions off
    obtain ⟨x, decoded⟩ : ∃ x, decodeWord s.wordAtPc = .ok (.ldVxK x) := by
      simpa [waits] using ran slot.running slot.quitFree
    refine ⟨x, ?_⟩
    have completed : u.runState ≠ .faulted := by
      rw [← show t.runState = u.runState from slot.unchangedBut_end .runState (by decide), waits]; nofun
    rw [slot.retired, u.retire_of_not_faulted _ completed, encode_of_decode_ldVxK decoded]; rfl
  | wait off run eq =>
    rw [show t.ir = s.ir from eq ▸ unchangedBut_wake_step s .ir (by decide)]
    exact holds run
  | halted off run eq =>
    rw [eq] at waits
    rcases run with run | run <;> cases run.symm.trans waits

end Sys2Proof.Machine
end

section
/-! PROOFS. Memory: every step keeps its canonical form, and a store is there for the very next fetch. -/

namespace Sys2Proof.Machine

variable {s t u : State} {i : Instr}

/-! ## The canonical form

It speaks of the memory list and the font alone, so an update that leaves both keeps it by definition. -/

theorem memCanonical_skipIf {c : Bool} (canonical : s.memCanonical) : (s.skipIf c).memCanonical := by
  rw [State.skipIf_eq]; exact canonical

theorem memCanonical_loadRegs {n : Nat} (canonical : s.memCanonical) : (s.loadRegs n).memCanonical := by
  obtain ⟨v, e⟩ := s.loadRegs_eq n
  rw [e]; exact canonical

theorem memCanonical_of_pop {a : Word} (e : s.pop = some (a, u)) (canonical : s.memCanonical) : u.memCanonical := by
  obtain ⟨_, _, rfl⟩ := s.pop_eq_some.1 e
  exact canonical

theorem memCanonical_of_push {a : Word} (e : s.push a = some u) (canonical : s.memCanonical) : u.memCanonical := by
  obtain ⟨_, rfl⟩ := s.push_eq_some.1 e
  exact canonical

theorem memCanonical_of_exec (h : exec i s = .next t) (canonical : s.memCanonical) : t.memCanonical := by
  have ends {u : State} (e : exec i s = .next u) (behind : u.memCanonical) : t.memCanonical :=
    Host.Outcome.next.inj (e.symm.trans h) ▸ behind
  by_cases raises : Raises i s
  · obtain ⟨r, rfl⟩ := eq_raise_of_raises h raises
    exact canonical
  cases i with
  | ldB x =>
    obtain ⟨-, e⟩ := (exec_ldB_cases x s).resolve_left raises
    exact ends e (State.storeByte_wf _ (State.storeByte_wf _ (s.storeByte_wf canonical)))
  | stRegs x =>
    obtain ⟨-, e⟩ := (exec_stRegs_cases x s).resolve_left raises
    exact ends e (s.storeRegs_wf _ canonical)
  | ldRegs x => exact ends ((exec_ldRegs_cases x s).resolve_left raises) (memCanonical_loadRegs canonical)
  | ret =>
    obtain ⟨a, u, popped, e⟩ := (exec_ret_cases s).resolve_left raises
    have behind : u.memCanonical := memCanonical_of_pop popped canonical
    exact e.elim (ends · behind) (ends · behind)
  | call nnn =>
    obtain ⟨u, pushed, e⟩ := (exec_call_cases nnn s).resolve_left raises
    have behind : u.memCanonical := memCanonical_of_push pushed canonical
    exact ends e behind
  | drw x y n =>
    obtain ⟨d, f, e⟩ := (exec_drw_cases x y n s).resolve_left raises
    exact ends e canonical
  | skp x =>
    obtain ⟨c, e⟩ := (exec_skp_cases x s).resolve_left raises
    exact ends e (memCanonical_skipIf canonical)
  | sknp x =>
    obtain ⟨c, e⟩ := (exec_sknp_cases x s).resolve_left raises
    exact ends e (memCanonical_skipIf canonical)
  | seImm | sneImm | seReg | sneReg => exact ends rfl (memCanonical_skipIf canonical)
  | _ => exact ends rfl canonical

theorem memCanonical_behindTK (canonical : s.memCanonical) : s.behindTK.memCanonical := by
  obtain ⟨k, e⟩ := s.behindTK_eq
  rw [e]; exact canonical

theorem memCanonical_retire {w : Word} (canonical : s.memCanonical) : (s.retire w).memCanonical := by
  by_cases f : s.runState = .faulted
  · rw [s.retire_faulted w f]; exact canonical
  · rw [s.retire_of_not_faulted w f]; exact canonical

theorem memCanonical_wake (canonical : s.memCanonical) : s.wake.memCanonical := by
  unfold State.wake
  match s.arrived with
  | [] => exact canonical
  | .keyDown _ :: _ | .keyUp _ :: _ | .quit :: _ => exact canonical

theorem memCanonical_idle (canonical : s.memCanonical) : s.idle.memCanonical := by
  have loaded := s.loads_wf s.input.loads canonical
  rw [State.loads_eq_put] at loaded
  rw [s.idle_eq]
  exact loaded

theorem Executes.memCanonical (h : Executes s i u t) (canonical : s.memCanonical) : t.memCanonical := by
  have executing : s.behindTK.advance.memCanonical := memCanonical_behindTK canonical
  have executed : u.memCanonical := memCanonical_of_exec h.executed executing
  rw [h.retired]
  exact memCanonical_retire executed

/-- Settles O57: memory is written by the load port and by stores alone, and both go through `Memory.put`; reset empties
the list. -/
theorem memoryStaysCanonical : Obligations.MemoryStaysCanonical := by
  intro s t canonical h
  cases step_cases h with
  | reset _ eq => exact eq ▸ Memory.nil_wf
  | idle _ _ eq => exact eq ▸ memCanonical_idle (s := s.beginStep) canonical
  | quit _ _ _ eq => exact eq ▸ memCanonical_behindTK canonical
  | fetchOob _ _ _ _ eq => exact eq ▸ memCanonical_behindTK canonical
  | instr _ slot => exact slot.memCanonical canonical
  | wait _ _ eq => exact eq ▸ memCanonical_wake (s := s.beginStep) canonical
  | halted _ _ eq => exact eq ▸ canonical

/-! ## The fetch behind a store -/

theorem fetch_setPc {a : Word} (le : a.toNat ≤ 0xFFE) :
    (s.setPc a).fetch = .ok (wordOfBytes (s.byteAt a.toNat) (s.byteAt (a.toNat + 1))) :=
  (State.fetch_ok _).2 ⟨by rw [State.setPc_pc]; omega, rfl⟩

theorem exec_stRegs_of_inside {x : Reg} (inside : s.index.toNat + x.val ≤ 0xFFF) :
    exec (.stRegs x) s = .next (s.storeRegs (x.val + 1)) := by
  simp only [exec, execStRegs, s.dataFault_eq_none.2 (.inr (by omega : s.index.toNat + (x.val + 1) ≤ 0x1000))]

theorem exec_ldB_of_inside {x : Reg} (inside : s.index.toNat + 2 ≤ 0xFFF) :
    exec (.ldB x) s = .next (((s.storeByte (s.dataAddr 0) (hundreds (s.reg x))).storeByte (s.dataAddr 1)
      (tens (s.reg x))).storeByte (s.dataAddr 2) (units (s.reg x))) := by
  simp only [exec, execLdB, s.dataFault_eq_none.2 (.inr (by omega : s.index.toNat + 3 ≤ 0x1000))]

theorem byteAt_storeRegs_eq_byteBehindRegs {x : Reg} (inside : s.index.toNat + x.val ≤ 0xFFF) (p : Nat) :
    (s.storeRegs (x.val + 1)).byteAt p = s.byteBehindRegs x p := by
  rw [State.byteAt_storeRegs s _ p (by omega)]
  unfold State.byteBehindRegs State.dataAddr
  exact if_congr (by omega) rfl rfl

/-- The three digits go to three addresses, so the order of the stores does not show. -/
theorem byteAt_storeDigits_eq_byteBehindDigits {x : Reg} (inside : s.index.toNat + 2 ≤ 0xFFF) (p : Nat) :
    (((s.storeByte (s.dataAddr 0) (hundreds (s.reg x))).storeByte (s.dataAddr 1) (tens (s.reg x))).storeByte
      (s.dataAddr 2) (units (s.reg x))).byteAt p = s.byteBehindDigits x p := by
  unfold State.dataAddr
  rw [State.byteAt_storeByte _ (by omega), State.byteAt_storeByte _ (by omega), State.byteAt_storeByte _ (by omega)]
  unfold State.byteBehindDigits State.dataAddr
  by_cases atHundreds : p = s.index.toNat
  · simp [atHundreds]
  by_cases atTens : p = s.index.toNat + 1
  · simp [atTens]
  simp [atHundreds, atTens]

/-- Settles O25: the fetch reads memory at once, and memory holds the stored byte where the store covers the address. -/
theorem storeSeenByNextFetch : Obligations.StoreSeenByNextFetch := by
  intro x s
  refine ⟨fun inside => ⟨_, exec_stRegs_of_inside inside, fun a le => ?_⟩,
    fun inside => ⟨_, exec_ldB_of_inside inside, fun a le => ?_⟩⟩
  · simp only [fetch_setPc le, byteAt_storeRegs_eq_byteBehindRegs inside]
  · simp only [fetch_setPc le, byteAt_storeDigits_eq_byteBehindDigits inside]

end Sys2Proof.Machine
end

section
/-! PROOFS. The encoding: the decoder and the encoder undo each other, and every word selects one row of the opcode map. -/

namespace Sys2Proof

variable {w p : Word} {g : Nat} {i j : Instr} {x y : Reg} {n : BitVec 4} {nn : Byte} {nnn : Addr}

/-! ## A word from its own parts -/

theorem wordNNN_of_fields (group : fieldGroup w = g) : wordNNN g (fieldNNN w) = w := by
  have lt : g < 16 := group ▸ fieldGroup_lt w
  rw [fieldGroup_eq] at group
  apply BitVec.eq_of_toNat_eq
  rw [wordNNN_toNat lt, fieldNNN_toNat]; omega

theorem wordXNN_of_fields (group : fieldGroup w = g) : wordXNN g (fieldX w) (fieldNN w) = w := by
  have lt : g < 16 := group ▸ fieldGroup_lt w
  rw [fieldGroup_eq] at group
  apply BitVec.eq_of_toNat_eq
  rw [wordXNN_toNat lt, fieldX_val, fieldNN_toNat]; omega

theorem wordXYN_of_fields (group : fieldGroup w = g) : wordXYN g (fieldX w) (fieldY w) (fieldN w) = w := by
  have lt : g < 16 := group ▸ fieldGroup_lt w
  rw [fieldGroup_eq] at group
  apply BitVec.eq_of_toNat_eq
  rw [wordXYN_toNat lt, fieldX_val, fieldY_val, fieldN_toNat]; omega

/-- The two bytes of a word, high byte first, make the word (R64). -/
theorem wordOfBytes_slices (w : Word) :
    wordOfBytes (BitVec.ofNat 8 (slice w 15 8)) (BitVec.ofNat 8 (slice w 7 0)) = w := by
  have := w.isLt
  apply BitVec.eq_of_toNat_eq
  simp only [wordOfBytes, slice, BitVec.toNat_ofNat]; omega

/-! ## The second level of the dispatch (R93)

A branch of a lookup by selector fixes the selector, which `encode` puts back; the last branch takes what the list does not hold. -/

theorem wf_decodeGroup0 (group : fieldGroup w = 0x0) : (decodeGroup0 w).wf = true := by
  unfold decodeGroup0
  split
  · rfl
  split
  · rfl
  next notCls notRet =>
    have word := wordNNN_of_fields group
    have ne0 : fieldNNN w ≠ 0x0E0 := fun e => notCls (word ▸ e ▸ rfl)
    have neE : fieldNNN w ≠ 0x0EE := fun e => notRet (word ▸ e ▸ rfl)
    simpa [Instr.wf] using ⟨ne0, neE⟩

theorem encode_decodeGroup0 (group : fieldGroup w = 0x0) : encode (decodeGroup0 w) = w := by
  unfold decodeGroup0
  split
  · next cls => exact cls.symm
  split
  · next ret => exact ret.symm
  · exact wordNNN_of_fields group

theorem decodeGroup0_of_unselected (ne0 : nnn ≠ 0x0E0) (neE : nnn ≠ 0x0EE) :
    decodeGroup0 (wordNNN 0x0 nnn) = .nop0 nnn := by
  have field : fieldNNN (wordNNN 0x0 nnn) = nnn := fieldNNN_wordNNN (by decide) nnn
  have notCls : wordNNN 0x0 nnn ≠ 0x00E0 := fun e => ne0 (field ▸ e ▸ rfl)
  have notRet : wordNNN 0x0 nnn ≠ 0x00EE := fun e => neE (field ▸ e ▸ rfl)
  rw [decodeGroup0, if_neg notCls, if_neg notRet, field]

theorem wf_decodeGroup8 (x y : Reg) (n : BitVec 4) : (decodeGroup8 x y n).wf = true := by
  unfold decodeGroup8
  split
  case h_10 => simp_all [Instr.wf, selectors8, ← BitVec.toNat_inj]
  all_goals rfl

theorem encode_decodeGroup8 (x y : Reg) (n : BitVec 4) : encode (decodeGroup8 x y n) = wordXYN 0x8 x y n := by
  unfold decodeGroup8
  split <;> simp [encode, wordXYN, *]

theorem decodeGroup8_of_unselected (h : n ∉ selectors8) : decodeGroup8 x y n = .nop8 x y n := by
  unfold decodeGroup8
  split
  case h_10 => rfl
  all_goals simp_all [selectors8, ← BitVec.toNat_inj]

theorem wf_decodeGroupE (x : Reg) (nn : Byte) : (decodeGroupE x nn).wf = true := by
  unfold decodeGroupE
  split
  case h_3 => simp_all [Instr.wf, selectorsE, ← BitVec.toNat_inj]
  all_goals rfl

theorem encode_decodeGroupE (x : Reg) (nn : Byte) : encode (decodeGroupE x nn) = wordXNN 0xE x nn := by
  unfold decodeGroupE
  split <;> simp [encode, wordXNN, *]

theorem decodeGroupE_of_unselected (h : nn ∉ selectorsE) : decodeGroupE x nn = .nopE x nn := by
  unfold decodeGroupE
  split
  case h_3 => rfl
  all_goals simp_all [selectorsE, ← BitVec.toNat_inj]

theorem wf_decodeGroupF (x : Reg) (nn : Byte) : (decodeGroupF x nn).wf = true := by
  unfold decodeGroupF
  split
  case h_10 => simp_all [Instr.wf, selectorsF, ← BitVec.toNat_inj]
  all_goals rfl

theorem encode_decodeGroupF (x : Reg) (nn : Byte) : encode (decodeGroupF x nn) = wordXNN 0xF x nn := by
  unfold decodeGroupF
  split <;> simp [encode, wordXNN, *]

theorem decodeGroupF_of_unselected (h : nn ∉ selectorsF) : decodeGroupF x nn = .nopF x nn := by
  unfold decodeGroupF
  split
  case h_10 => rfl
  all_goals simp_all [selectorsF, ← BitVec.toNat_inj]

/-! ## The round trips -/

theorem wf_and_encode_of_decodeWord (h : decodeWord w = .ok i) : i.wf = true ∧ encode i = w := by
  unfold decodeWord at h
  split at h
  case h_17 => cases h
  all_goals obtain rfl := Except.ok.inj h
  case h_1 group => exact ⟨wf_decodeGroup0 group, encode_decodeGroup0 group⟩
  case h_9 group => exact ⟨wf_decodeGroup8 _ _ _, (encode_decodeGroup8 _ _ _).trans (wordXYN_of_fields group)⟩
  case h_15 group => exact ⟨wf_decodeGroupE _ _, (encode_decodeGroupE _ _).trans (wordXNN_of_fields group)⟩
  case h_16 group => exact ⟨wf_decodeGroupF _ _, (encode_decodeGroupF _ _).trans (wordXNN_of_fields group)⟩
  case h_2 group | h_3 group | h_11 group | h_12 group => exact ⟨rfl, wordNNN_of_fields group⟩
  case h_4 group | h_5 group | h_7 group | h_8 group | h_13 group => exact ⟨rfl, wordXNN_of_fields group⟩
  case h_6 group | h_10 group | h_14 group => exact ⟨rfl, wordXYN_of_fields group⟩

theorem decodeWord_group8 (x y : Reg) (n : BitVec 4) : decodeWord (wordXYN 0x8 x y n) = .ok (decodeGroup8 x y n) := by
  simp (disch := decide) only [decodeWord, fieldGroup_wordXYN, fieldX_wordXYN, fieldY_wordXYN, fieldN_wordXYN]

theorem decodeWord_groupE (x : Reg) (nn : Byte) : decodeWord (wordXNN 0xE x nn) = .ok (decodeGroupE x nn) := by
  simp (disch := decide) only [decodeWord, fieldGroup_wordXNN, fieldX_wordXNN, fieldNN_wordXNN]

theorem decodeWord_groupF (x : Reg) (nn : Byte) : decodeWord (wordXNN 0xF x nn) = .ok (decodeGroupF x nn) := by
  simp (disch := decide) only [decodeWord, fieldGroup_wordXNN, fieldX_wordXNN, fieldNN_wordXNN]

/-- A selector is looked up in its group's list; an ignored class is what no list takes. -/
theorem decodeWord_encode (wf : i.wf = true) : decodeWord (encode i) = .ok i := by
  cases i with
  | cls | ret => rfl
  | jp | call | ldI | jpV0 => simp (disch := decide) only [encode, decodeWord, fieldGroup_wordNNN, fieldNNN_wordNNN]
  | seImm | sneImm | ldImm | addImm | rnd =>
    simp (disch := decide) only [encode, decodeWord, fieldGroup_wordXNN, fieldX_wordXNN, fieldNN_wordXNN]
  | seReg | sneReg | drw =>
    simp (disch := decide) only [encode, decodeWord, fieldGroup_wordXYN, fieldX_wordXYN, fieldY_wordXYN, fieldN_wordXYN]
  | ldReg x y | orReg x y | andReg x y | xorReg x y | addReg x y | sub x y | shr x y | subn x y | shl x y =>
    exact decodeWord_group8 x y _
  | skp x | sknp x => exact decodeWord_groupE x _
  | ldVxDt x | ldVxK x | ldDtVx x | ldStVx x | addI x | ldF x | ldB x | stRegs x | ldRegs x => exact decodeWord_groupF x _
  | nop0 nnn =>
    obtain ⟨ne0, neE⟩ : nnn ≠ 0x0E0 ∧ nnn ≠ 0x0EE := by simpa [Instr.wf] using wf
    rw [encode, decodeWord, fieldGroup_wordNNN (by decide)]
    exact congrArg _ (decodeGroup0_of_unselected ne0 neE)
  | nop8 x y n =>
    have unselected : n ∉ selectors8 := by simpa [Instr.wf] using wf
    rw [encode, decodeWord_group8, decodeGroup8_of_unselected unselected]
  | nopE x nn =>
    have unselected : nn ∉ selectorsE := by simpa [Instr.wf] using wf
    rw [encode, decodeWord_groupE, decodeGroupE_of_unselected unselected]
  | nopF x nn =>
    have unselected : nn ∉ selectorsF := by simpa [Instr.wf] using wf
    rw [encode, decodeWord_groupF, decodeGroupF_of_unselected unselected]

/-- Settles O1: the two bytes make the word again, and the word decodes to its instruction. -/
theorem decodeInvertsEncode : Obligations.DecodeInvertsEncode := by
  intro i rest wf
  change (decodeWord (wordOfBytes _ _)).map _ = _
  rw [wordOfBytes_slices, decodeWord_encode wf]
  rfl

/-- Settles O2: each group's decoder keeps every field of the word. -/
theorem encodeInvertsDecode : Obligations.EncodeInvertsDecode := fun _ _ => wf_and_encode_of_decodeWord

/-- Settles O4. -/
theorem sampleWordsDecode : Obligations.SampleWordsDecode := by unfold Obligations.SampleWordsDecode; decide

/-! ## The rows of the opcode map (R94, R96) -/

/-- Every instruction's word fits its own row. -/
theorem encode_and_mask : ∀ i : Instr, encode i &&& i.mask = i.pattern :=
  open Laws.WordFitsRow in
  Instr.rec cls ret nop0 jp call seImm sneImm seReg ldImm addImm ldReg orReg andReg xorReg addReg sub shr subn shl nop8 sneReg
    ldI jpV0 rnd drw skp sknp nopE ldVxDt ldVxK ldDtVx ldStVx addI ldF ldB stRegs ldRegs nopF

theorem mask_of_ignored (h : i.ignored = true) : i.mask = 0xF000 := by
  cases i with
  | nop0 | nop8 | nopE | nopF => rfl
  | _ => cases h

/-! ### What a mask shows of a word -/

theorem fieldGroup_of_group (h : w &&& 0xF000 = p) : fieldGroup w = p.toNat / 4096 := by
  rw [← h, fieldGroup_eq, Laws.toNat_and_group]; omega

theorem fields_of_group_n (h : w &&& 0xF00F = p) : fieldGroup w = p.toNat / 4096 ∧ fieldN w = p.setWidth 4 := by
  refine ⟨?_, BitVec.eq_of_toNat_eq ?_⟩
  · rw [← h, fieldGroup_eq, Laws.toNat_and_group_n]; omega
  · rw [← h, fieldN_toNat, BitVec.toNat_setWidth, Laws.toNat_and_group_n]; omega

theorem fields_of_group_nn (h : w &&& 0xF0FF = p) : fieldGroup w = p.toNat / 4096 ∧ fieldNN w = p.setWidth 8 := by
  refine ⟨?_, BitVec.eq_of_toNat_eq ?_⟩
  · rw [← h, fieldGroup_eq, Laws.toNat_and_group_nn]; omega
  · rw [← h, fieldNN_toNat, BitVec.toNat_setWidth, Laws.toNat_and_group_nn]; omega

/-- A word that matches a row tested first decodes to that row: the row's mask covers what the dispatch looks at. -/
theorem row_of_decodeWord (first : j.ignored = false) (fits : w &&& j.mask = j.pattern) (h : decodeWord w = .ok i) :
    i.ignored = false ∧ i.mask = j.mask ∧ i.pattern = j.pattern := by
  cases j with
  | nop0 | nop8 | nopE | nopF => cases first
  | cls | ret =>
    obtain rfl := (BitVec.and_allOnes (x := w)).symm.trans fits
    obtain rfl := Except.ok.inj h
    exact ⟨rfl, rfl, rfl⟩
  | jp | call | seImm | sneImm | seReg | ldImm | addImm | sneReg | ldI | jpV0 | rnd | drw =>
    simp only [decodeWord, fieldGroup_of_group fits, Instr.pattern, BitVec.ofNat_eq_ofNat,
      BitVec.reduceToNat, Nat.reduceDiv, Except.ok.injEq] at h
    subst h
    exact ⟨rfl, rfl, rfl⟩
  | ldReg | orReg | andReg | xorReg | addReg | sub | shr | subn | shl =>
    obtain ⟨group, n⟩ := fields_of_group_n fits
    simp only [decodeWord, group, n, Instr.pattern, BitVec.ofNat_eq_ofNat,
      BitVec.reduceToNat, Nat.reduceDiv, Except.ok.injEq] at h
    subst h
    exact ⟨rfl, rfl, rfl⟩
  | skp | sknp | ldVxDt | ldVxK | ldDtVx | ldStVx | addI | ldF | ldB | stRegs | ldRegs =>
    obtain ⟨group, nn⟩ := fields_of_group_nn fits
    simp only [decodeWord, group, nn, Instr.pattern, BitVec.ofNat_eq_ofNat,
      BitVec.reduceToNat, Nat.reduceDiv, Except.ok.injEq] at h
    subst h
    exact ⟨rfl, rfl, rfl⟩

/-- Of the rows tested first a word matches the one it decodes to only, and of the ignored classes the one of its group only. -/
theorem row_unique (h : decodeWord w = .ok i) (fits : w &&& i.mask = i.pattern) (priority : j.ignored = i.ignored)
    (fits' : w &&& j.mask = j.pattern) : j.mask = i.mask ∧ j.pattern = i.pattern := by
  cases first : j.ignored with
  | false =>
    obtain ⟨-, mask, pattern⟩ := row_of_decodeWord first fits' h
    exact ⟨mask.symm, pattern.symm⟩
  | true =>
    have mask : j.mask = i.mask := (mask_of_ignored first).trans (mask_of_ignored (priority ▸ first)).symm
    exact ⟨mask, by rw [← fits', mask, fits]⟩

end Sys2Proof
end

section
/-! PROOFS. Every word executes, and what an instruction ignores does nothing. -/

namespace Sys2Proof.Machine

variable {s : State} {i : Instr}

theorem exec_of_ignored (h : i.ignored = true) : exec i s = .next s := by
  cases i with
  | nop0 | nop8 | nopE | nopF => rfl
  | _ => cases h

/-- No meaning reads a field that the row ignores. -/
theorem exec_canonical (i : Instr) (s : State) : exec i.canonical s = exec i s := by
  cases i with
  | seReg | sneReg | shr | shl => rfl -- the meaning leaves the field unread
  | _ => rfl -- the canonical form is the instruction itself

/-- Settles O3: the word is its instruction's own, so it fits that row; what else it matches is tested behind, or not at all. -/
theorem everyWordSelectsOneRow : Obligations.EveryWordSelectsOneRow := by
  intro w
  obtain ⟨i, decoded⟩ := decodeWord_total w
  obtain ⟨-, word⟩ := wf_and_encode_of_decodeWord decoded
  have fits : w &&& i.mask = i.pattern := word ▸ encode_and_mask i
  refine ⟨i, decoded, fits, fun j => row_unique decoded fits, fun ignored j first fits' => ?_, fun s => ?_⟩
  · obtain ⟨taken, -⟩ := row_of_decodeWord first fits' decoded
    cases ignored.symm.trans taken
  · obtain ⟨t, executed, -⟩ := exec_completes_or_faults i s
    refine ⟨t, executed, fun ignored => ?_⟩
    obtain rfl : s = t := Host.Outcome.next.inj ((exec_of_ignored ignored).symm.trans executed)
    exact unchangedBut_refl s

/-- Settles O5. -/
theorem ignoredFieldsChangeNothing : Obligations.IgnoredFieldsChangeNothing :=
  ⟨exec_canonical, fun _ _ _ hi hj => (exec_of_ignored hi).trans (exec_of_ignored hj).symm⟩

end Sys2Proof.Machine
end

section
/-! PROOFS. The engine cycle: what phases T and K leave, and what one step does in each run state. -/

namespace Sys2Proof.Machine

variable {s t u : State} {i : Instr}

/-! ## Phases T and K -/

/-- What one event says of key `k`, if it speaks of it (R31, R287). -/
def keySaid (k : KeyNum) (e : HostEvent) : Option Bool :=
  if e = .keyDown k then some true else if e = .keyUp k then some false else none

/-- What the events say of key `k`: its last one in front of the first `Quit` decides. -/
def lastSaid (k : KeyNum) (es : List HostEvent) : Option Bool := (es.takeWhile (· ≠ .quit)).reverse.findSome? (keySaid k)

theorem lastSaid_cons (k : KeyNum) (e : HostEvent) (es : List HostEvent) (other : e ≠ .quit) :
    lastSaid k (e :: es) = (lastSaid k es).or (keySaid k e) := by
  simp [lastSaid, other, List.findSome?_append]

theorem getD_keySaid_keyDown (s : State) (k q : KeyNum) :
    (keySaid k (.keyDown q)).getD (s.keyPressed k) = (s.setKey q true).keyPressed k := by
  rw [s.keyPressed_setKey]
  by_cases h : k = q <;> simp [keySaid, h, eq_comm (a := q)]

theorem getD_keySaid_keyUp (s : State) (k q : KeyNum) :
    (keySaid k (.keyUp q)).getD (s.keyPressed k) = (s.setKey q false).keyPressed k := by
  rw [s.keyPressed_setKey]
  by_cases h : k = q <;> simp [keySaid, h, eq_comm (a := q)]

theorem keyPressed_takeEvents (k : KeyNum) (es : List HostEvent) (s : State) :
    (s.takeEvents es).keyPressed k = (lastSaid k es).getD (s.keyPressed k) := by
  induction es generalizing s with
  | nil => rfl
  | cons e es ih =>
    cases e with
    | keyDown q => rw [State.takeEvents, ih, lastSaid_cons k (.keyDown q) es nofun, Option.getD_or, getD_keySaid_keyDown]
    | keyUp q => rw [State.takeEvents, ih, lastSaid_cons k (.keyUp q) es nofun, Option.getD_or, getD_keySaid_keyUp]
    | quit => rfl

/-- Settles O38: the timers, queue and run state of `behindTK_eq`, and the keys as phase K's list of events left them. -/
theorem tickThenKeysBeforeInstruction : Obligations.TickThenKeysBeforeInstruction := by
  intro s
  have frame : UnchangedBut [.dt, .st, .key, .pending, .runState, .frameReady] s s.behindTK :=
    (unchangedBut_behindTK s).mono (by decide)
  have keys (k : KeyNum) := keyPressed_takeEvents k s.arrived (s.beginStep.phaseT.setPending [])
  obtain ⟨k, e⟩ := s.behindTK_eq
  refine ⟨?_, ?_, keys, ?_, ?_, frame⟩
  · rw [e, tickIf_toNat]
  · rw [e, tickIf_toNat]
  · rw [e]
  · rw [e]

/-! ## Faults -/

theorem faultedFrom_raiseAt (s : State) (a : Word) (r : FaultReport) : FaultedFrom r.cause a s (s.raiseAt a r) := by
  refine ⟨rfl, rfl, rfl, rfl, fun p hp => ?_⟩
  cases p <;> simp_all [Part.same]

/-- A fault in phase X leaves what phases T and K left, but for its record (R128, R272). -/
theorem faultedFrom_behindTK (s : State) (r : FaultReport) :
    FaultedFrom r.cause s.pc s.behindTK.endStep (s.behindTK.raiseAt s.pc r).endStep :=
  faultedFrom_raiseAt s.behindTK.endStep s.pc r

/-- A fault raised behind the base advance undoes it (R125, R128). -/
theorem raise_advance (s : State) (r : FaultReport) : s.advance.raise r = s.raiseAt s.pc r := by
  simp [State.raise_eq, State.advance, State.raiseAt, State.setPc]

theorem retire_of_faulted (w : Word) (faulted : s.runState = .faulted) (low : s.frameReady = false) :
    s.retire w = s := by
  rw [s.retire_faulted w faulted, ← low]

/-- An instruction whose slot ends FAULTED has only raised a fault. -/
theorem Executes.raises_of_faulted (h : Executes s i u t) (faulted : t.runState = .faulted) :
    ∃ r, r.cause ∈ i.faults ∧ t = (s.behindTK.raiseAt s.pc r).endStep := by
  have behind : u.runState = .faulted := (h.unchangedBut_end .runState (by decide)).symm.trans faulted
  rcases raises_or_completes i s.behindTK.advance with ⟨r, listed, e⟩ | ⟨v, e, ends⟩
  · refine ⟨r, listed, ?_⟩
    obtain rfl : u = s.behindTK.raiseAt s.pc r := by
      rw [← s.behindTK_pc, ← raise_advance]; exact Host.Outcome.next.inj (h.executed.symm.trans e)
    have low : s.behindTK.frameReady = false := by obtain ⟨k, e⟩ := s.behindTK_eq; rw [e]
    rw [h.retired, retire_of_faulted _ behind low]
  · obtain rfl : u = v := Host.Outcome.next.inj (h.executed.symm.trans e)
    rcases runState_of_completes e ends with same | ⟨waits, -⟩
    · simp [h.executing_runState, behind] at same
    · simp [behind] at waits

/-- Settles O41: a slot faults at its fetch or in its instruction, and in both the fault is raised on what phases T and K left. -/
theorem faultsArePrecise : Obligations.FaultsArePrecise := by
  intro s t off run h faulted
  cases step_cases h with
  | reset on => simp [on] at off
  | idle _ run' | wait _ run' => simp [run] at run'
  | halted _ run' => simp [run] at run'
  | quit _ _ q eq =>
    have stopped : t.runState = .stopped := eq ▸ State.behindTK_stopped q
    simp [stopped] at faulted
  | fetchOob _ _ _ _ eq =>
    rw [s.behindTK_pc] at eq
    exact eq ▸ ⟨nofun, faultedFrom_behindTK s _⟩
  | @instr _ i _ slot =>
    obtain ⟨r, listed, rfl⟩ := slot.raises_of_faulted faulted
    exact ⟨fun none => none_not_mem_faults i (none ▸ listed), faultedFrom_behindTK s r⟩

/-! ## The slot -/

theorem step_of_fetchOob (off : s.input.reset = false) (run : s.runState = .running) (q : s.quitFree)
    (beyond : s.pc.toNat ≥ 0xFFF) :
    step s = .next (s.behindTK.raiseAt s.pc ⟨.fetchOob, s.pc.toNat⟩).endStep := by
  rw [step_of_slot s off run q, State.phaseX_fetchOob _ (by rwa [s.behindTK_pc]), s.behindTK_pc]; rfl

/-- Settles O40. -/
theorem fetchBoundFaults : Obligations.FetchBoundFaults := fun s off run q beyond =>
  ⟨_, step_of_fetchOob off run q beyond, faultedFrom_behindTK s _⟩

theorem step_of_instr (off : s.input.reset = false) (run : s.runState = .running) (q : s.quitFree)
    (fetched : s.pc.toNat ≤ 0xFFE) (decoded : decodeWord s.wordAtPc = .ok i) (executed : exec i s.behindTK.advance = .next u) :
    step s = .next (u.retire s.wordAtPc).endStep := by
  rw [step_of_slot s off run q, State.phaseX_instr _ (by rwa [s.behindTK_pc]) (by rwa [s.behindTK_wordAtPc]), executed,
    s.behindTK_wordAtPc]
  rfl

/-- The inputs of coming steps, and the count of the past ones, are no instruction's (log 1). -/
theorem script_and_time_of_exec (h : exec i s = .next t) : t.script = s.script ∧ t.time = s.time := by
  have rows : .script ∉ i.writes ∧ .time ∉ i.writes := by cases i <;> simp [Instr.writes]
  exact ⟨same_of_exec (p := .script) h rows.1 (by decide), same_of_exec (p := .time) h rows.2 (by decide)⟩

/-- The end of a slot and of its step, written out. -/
theorem retire_endStep_eq (u : State) (w : Word) : (u.retire w).endStep = { u with
    ir := if u.runState = .faulted then u.ir else w
    frameReady := decide (u.runState ≠ .faulted) && fieldGroup w == 0xD
    script := u.script.tail
    time := u.time + 1 } := by
  by_cases faulted : u.runState = .faulted
  · simp [u.retire_faulted w faulted, State.endStep, faulted]
  · simp [u.retire_of_not_faulted w faulted, State.endStep, faulted]

/-- Settles O37. -/
theorem stepRunsDecodedInstruction : Obligations.StepRunsDecodedInstruction := by
  intro s i off run q fetched decoded
  obtain ⟨t, executed, -⟩ := exec_completes_or_faults i s.behindTK.advance
  obtain ⟨script, time⟩ := script_and_time_of_exec executed
  have advanced : s.behindTK.advance = s.behindTK.setPc (s.pc + 2) := by rw [State.advance, s.behindTK_pc]
  have executing := unchangedBut_executing s
  refine ⟨t, advanced ▸ executed, ?_⟩
  rw [step_of_instr off run q fetched decoded executed, retire_endStep_eq, script, time,
    show s.behindTK.advance.script = s.script from executing .script (by decide),
    show s.behindTK.advance.time = s.time from executing .time (by decide)]

theorem exists_step_of_running (off : s.input.reset = false) (run : s.runState = .running) : ∃ t, step s = .next t := by
  by_cases q : HostEvent.quit ∈ s.arrived
  · exact ⟨_, step_of_quit s off run q⟩
  by_cases fetched : s.pc.toNat ≤ 0xFFE
  · obtain ⟨i, decoded⟩ := decodeWord_total s.wordAtPc
    obtain ⟨t, executed, -⟩ := exec_completes_or_faults i s.behindTK.advance
    exact ⟨_, step_of_instr off run q fetched decoded executed⟩
  · exact ⟨_, step_of_fetchOob off run q (by omega)⟩

/-- Settles O39: the step answers under reset and in each run state. -/
theorem stepAlwaysAnswersNext : Obligations.StepAlwaysAnswersNext := by
  intro s
  cases off : s.input.reset with
  | true => exact ⟨_, step_of_reset s off⟩
  | false =>
    cases run : s.runState with
    | idle => exact ⟨_, step_of_idle s off run⟩
    | running => exact exists_step_of_running off run
    | waitKey => exact ⟨_, step_of_waitKey s off run⟩
    | faulted => exact ⟨_, step_of_halted s off (.inl run)⟩
    | stopped => exact ⟨_, step_of_halted s off (.inr run)⟩

/-! ## Outside RUNNING -/

/-- Settles O45. -/
theorem noSlotOutsideRunning : Obligations.NoSlotOutsideRunning := by
  intro s off
  refine ⟨fun run => ⟨_, step_of_halted s off run, rfl, ?_⟩, fun run => ⟨_, step_of_idle s off run, ?_, ?_⟩⟩
  · exact (((unchangedBut_beginStep s).trans (unchangedBut_setPending _ [])).trans (unchangedBut_endStep _)).mono (by decide)
  · rw [State.endStep_pending, State.idle_eq]
  · exact (unchangedBut_idle_step s).mono (by decide)

theorem unchangedBut_setKey (s : State) (k : KeyNum) (b : Bool) : UnchangedBut [.key] s (s.setKey k b) := by
  intro p hp; cases p <;> simp_all [Part.same]

theorem wake_of_arrived_nil (none : s.arrived = []) : s.wake = s := by rw [State.wake, none]

theorem wake_of_arrived_cons {e : HostEvent} {es : List HostEvent} (first : s.arrived = e :: es) :
    s.wake = (s.setPending es).wakeOn e := by rw [State.wake, first]

/-- The register that a wake-up writes, by the bits of `IR` (R131). -/
theorem eq_fieldX_iff (r : Reg) (w : Word) : r = fieldX w ↔ r.val = w.toNat / 256 % 16 := by
  rw [Fin.ext_iff, fieldX_val]

/-- The key's number in the register that `IR` names, the other registers kept. -/
theorem reg_wakeOn_keyDown (s : State) (k : KeyNum) (r : Reg) : ((s.wakeOn (.keyDown k)).reg r).toNat =
    if r.val = s.ir.toNat / 256 % 16 then k.val else (s.reg r).toNat := by
  have byte : (BitVec.ofNat 8 k.val).toNat = k.val := by rw [BitVec.toNat_ofNat]; omega
  simp only [State.wakeOn, State.setRun_reg, State.reg_setReg, State.setKey_reg, eq_fieldX_iff]
  rw [apply_ite BitVec.toNat, byte]

theorem keyPressed_wakeOn_keyDown (s : State) (k q : KeyNum) : (s.wakeOn (.keyDown k)).keyPressed q =
    if q = k then true else s.keyPressed q := s.keyPressed_setKey k q true

theorem keyPressed_wakeOn_keyUp (s : State) (k q : KeyNum) : (s.wakeOn (.keyUp k)).keyPressed q =
    if q = k then false else s.keyPressed q := s.keyPressed_setKey k q false

/-- Settles O43: the wait goes on, one key is released, or one is pressed and delivered. -/
theorem wakeUpStep : Obligations.WakeUpStep := by
  intro s off run
  have woken := step_of_waitKey s off run
  refine ⟨fun none => ?_, fun k es first => ?_, fun k es first => ?_⟩
  · rw [wake_of_arrived_nil (s := s.beginStep) none] at woken
    exact ⟨_, woken, (unchangedBut_beginStep s).trans (unchangedBut_endStep _)⟩
  · rw [wake_of_arrived_cons (s := s.beginStep) first] at woken
    have taken := (unchangedBut_beginStep s).trans (unchangedBut_setPending _ es)
    have released := taken.trans (unchangedBut_setKey _ k false)
    exact ⟨_, woken, rfl, keyPressed_wakeOn_keyUp _ k, (released.trans (unchangedBut_endStep _)).mono (by decide)⟩
  · rw [wake_of_arrived_cons (s := s.beginStep) first] at woken
    have taken := (unchangedBut_beginStep s).trans (unchangedBut_setPending _ es)
    have delivered := taken.trans (unchangedBut_wakeOn _ (.keyDown k))
    exact ⟨_, woken, rfl, rfl, keyPressed_wakeOn_keyDown _ k, reg_wakeOn_keyDown _ k,
      (delivered.trans (unchangedBut_endStep _)).mono (by decide)⟩

end Sys2Proof.Machine
end

section
/-! PROOFS. Control flow: jumps and skips write `pc` alone, and the call stack fills and empties one entry at a time. -/

namespace Sys2Proof.Machine

variable {s t u : State}

/-! ## Jumps and skips -/

/-- The sum of a jump target is not masked, and 16 bits hold it (R153, D26). -/
theorem jumpTarget_toNat (nnn : Addr) (b : Byte) : (zext16 nnn + b.setWidth 16).toNat = nnn.toNat + b.toNat := by
  have := nnn.isLt
  have := b.isLt
  rw [BitVec.toNat_add, zext16_toNat, BitVec.toNat_setWidth]; omega

/-- Settles O13. -/
theorem jumpsSetPc : Obligations.JumpsSetPc := fun nnn s =>
  ⟨⟨_, rfl, zext16_toNat nnn, unchangedBut_setPc s _⟩, ⟨_, rfl, jumpTarget_toNat nnn (s.reg 0), unchangedBut_setPc s _⟩⟩

theorem skipIf_beq_pc (s : State) (a b : Byte) : (s.skipIf (a == b)).pc = if a = b then s.pc + 2 else s.pc := by
  simp only [State.skipIf_eq, State.setPc_pc, beq_iff_eq]

theorem skipIf_bne_pc (s : State) (a b : Byte) : (s.skipIf (a != b)).pc = if a = b then s.pc else s.pc + 2 := by
  simp only [State.skipIf_eq, State.setPc_pc, bne_iff_ne, ite_not]

/-- Settles O18: two skips on equality and two on inequality. -/
theorem registerSkips : Obligations.RegisterSkips := fun _ _ _ _ s =>
  ⟨⟨_, rfl, unchangedBut_skipIf s _, skipIf_beq_pc s _ _⟩, ⟨_, rfl, unchangedBut_skipIf s _, skipIf_bne_pc s _ _⟩,
    ⟨_, rfl, unchangedBut_skipIf s _, skipIf_beq_pc s _ _⟩, ⟨_, rfl, unchangedBut_skipIf s _, skipIf_bne_pc s _ _⟩⟩

/-! ## The stack's own operations -/

/-- With room, a push writes the entry `sp` points at, and no other, and raises `sp` (R28). -/
theorem exists_push_of_room (a : Word) (room : s.sp.val < 16) : ∃ u, s.push a = some u ∧ u.sp.val = s.sp.val + 1 ∧
    ∀ k : Fin 16, u.stack[k] = if k.val = s.sp.val then a else s.stack[k] := by
  refine ⟨_, s.push_eq_some.2 ⟨room, rfl⟩, rfl, fun k => ?_⟩
  simp only [Fin.getElem_fin, Vector.getElem_set, eq_comm]

/-- A pop takes the entry below `sp` (R27, R28). -/
theorem exists_pop_of_entry {k : Fin 16} (top : s.sp.val = k.val + 1) :
    ∃ u, s.pop = some (s.stack[k], u) ∧ u.sp.val = k.val := by
  have below : s.sp.val - 1 = k.val := by omega
  exact ⟨_, s.pop_eq_some.2 ⟨by omega, by simp [below], rfl⟩, below⟩

/-! ## Calls -/

theorem exec_call_of_push (nnn : Addr) (pushed : s.push s.pc = some u) :
    exec (.call nnn) s = .next (u.setPc (zext16 nnn)) := by
  simp only [exec, execCall, pushed]

theorem exec_call_of_full (nnn : Addr) (full : s.sp.val = 16) :
    exec (.call nnn) s = .next (s.raise ⟨.stackOverflow, s.instrAddr.toNat⟩) := by
  simp only [exec, execCall, s.push_eq_none.2 full]

/-- Settles O14: the push decides. -/
theorem callPushesOrOverflows : Obligations.CallPushesOrOverflows := by
  intro nnn s
  refine ⟨fun room => ?_, fun full => ⟨_, exec_call_of_full nnn full, faultedFrom_raise s _⟩⟩
  obtain ⟨u, pushed, raised, entries⟩ := exists_push_of_room s.pc room
  exact ⟨_, exec_call_of_push nnn pushed, raised, entries, zext16_toNat nnn,
    (unchangedBut_of_push pushed).trans (unchangedBut_setPc u _)⟩

/-! ## Returns -/

theorem exec_ret_of_empty (empty : s.sp.val = 0) :
    exec .ret s = .next (s.raise ⟨.stackUnderflow, s.instrAddr.toNat⟩) := by
  simp only [exec, execRet, s.pop_eq_none.2 empty]

theorem exec_ret_asObserved {a : Word} (popped : s.pop = some (a, u)) (mode : s.cfg.retMode = .asObserved) :
    exec .ret s = .next u := by
  simp only [exec, execRet, popped, mode]

theorem exec_ret_restorePc {a : Word} (popped : s.pop = some (a, u)) (mode : s.cfg.retMode = .restorePc) :
    exec .ret s = .next (u.setPc a) := by
  simp only [exec, execRet, popped, mode]

/-- Settles O15: the pop decides, and where it succeeds the mode. -/
theorem returnPopsOrUnderflows : Obligations.ReturnPopsOrUnderflows := by
  intro s
  refine ⟨fun k top mode => ?_, fun k top mode => ?_, fun empty => ⟨_, exec_ret_of_empty empty, faultedFrom_raise s _⟩⟩
  · obtain ⟨u, popped, lowered⟩ := exists_pop_of_entry top
    exact ⟨u, exec_ret_asObserved popped mode, lowered, unchangedBut_of_pop popped⟩
  · obtain ⟨u, popped, lowered⟩ := exists_pop_of_entry top
    exact ⟨_, exec_ret_restorePc popped mode, lowered, rfl, (unchangedBut_of_pop popped).trans (unchangedBut_setPc u _)⟩

/-! ## Calls and returns together -/

/-- Settles O16: the return pops the entry that the call pushed. -/
theorem callThenReturn : Obligations.CallThenReturn := by
  intro nnn a s room
  obtain ⟨t, called, raised, entries, -, frame⟩ := (callPushesOrOverflows nnn s).1 room
  have pushed : t.stack[s.sp.val] = s.pc := (entries ⟨s.sp.val, room⟩).trans (if_pos rfl)
  have sameCfg : t.cfg = s.cfg := frame .cfg (by decide)
  obtain ⟨observed, restored, -⟩ := returnPopsOrUnderflows (t.setPc a)
  cases mode : s.cfg.retMode with
  | asObserved =>
    obtain ⟨u, returned, lowered, kept⟩ := observed ⟨s.sp.val, room⟩ raised (sameCfg ▸ mode)
    exact ⟨t, u, called, returned, Fin.ext lowered, nofun, fun _ => kept .pc (by decide)⟩
  | restorePc =>
    obtain ⟨u, returned, lowered, resumed, -⟩ := restored ⟨s.sp.val, room⟩ raised (sameCfg ▸ mode)
    exact ⟨t, u, called, returned, Fin.ext lowered, fun _ => resumed.trans pushed, nofun⟩

theorem callAll_cons {nnn : Addr} (rest : List Addr) (called : exec (.call nnn) s = .next t) :
    callAll (nnn :: rest) s = callAll rest t := by
  rw [callAll, called]

/-- Calls that the stack has room for push one entry each. -/
theorem callAll_sp (targets : List Addr) (s : State) (room : s.sp.val + targets.length ≤ 16) :
    ∃ t, callAll targets s = .next t ∧ t.sp.val = s.sp.val + targets.length := by
  induction targets generalizing s with
  | nil => exact ⟨s, rfl, rfl⟩
  | cons nnn rest ih =>
    rw [List.length_cons] at room ⊢
    obtain ⟨t, called, raised, -⟩ := (callPushesOrOverflows nnn s).1 (by omega)
    obtain ⟨u, calledRest, spBehind⟩ := ih t (by omega)
    exact ⟨u, (callAll_cons rest called).trans calledRest, by omega⟩

/-- Settles O17: sixteen entries fill the stack, and the next push has no room. -/
theorem seventeenthCallOverflows : Obligations.SeventeenthCallOverflows := by
  intro targets s empty few
  obtain ⟨t, called, spBehind⟩ := callAll_sp targets s (by omega)
  have depth : t.sp.val = targets.length := by omega
  exact ⟨t, called, depth, fun sixteen nnn => (callPushesOrOverflows nnn t).2 (depth.trans sixteen)⟩

end Sys2Proof.Machine
end

section
/-! PROOFS. Load, arithmetic, logic, shift and random: one register is written, or `VF` as a flag first and then one register (R170). -/

namespace Sys2Proof.Machine

variable {s : State}

/-! ## One register, no flag -/

/-- Settles O6. -/
theorem loadImmediateWritesOneRegister : Obligations.LoadImmediateWritesOneRegister := fun x nn s =>
  ⟨_, rfl, onlyReg_setReg s x nn⟩

/-- Settles O7. -/
theorem addImmediateWrapsWithoutFlag : Obligations.AddImmediateWrapsWithoutFlag := fun x nn s =>
  ⟨_, _, rfl, BitVec.toNat_add (s.reg x) nn, onlyReg_setReg s x _⟩

/-- Settles O8: the bits of an or, an and and an exclusive or are those of the operands. -/
theorem moveAndLogicWriteOneRegister : Obligations.MoveAndLogicWriteOneRegister := fun x _ s =>
  ⟨⟨_, rfl, onlyReg_setReg s x _⟩,
    ⟨_, _, rfl, onlyReg_setReg s x _, fun _ _ => BitVec.getLsbD_or⟩,
    ⟨_, _, rfl, onlyReg_setReg s x _, fun _ _ => BitVec.getLsbD_and⟩,
    ⟨_, _, rfl, onlyReg_setReg s x _, fun _ _ => BitVec.getLsbD_xor⟩⟩

/-- A draw that the inputs fix is theirs (R182, log 1). -/
theorem randomByte_of_script {inp : StepInput} {rest : List StepInput} (fixed : s.script = inp :: rest) :
    s.randomByte = inp.rnd := by
  simp only [State.randomByte, State.input, fixed]

/-- Settles O12: a bit of the mask lets the drawn bit through or clears it. -/
theorem randomIsMaskedDraw : Obligations.RandomIsMaskedDraw := by
  intro x nn s
  refine ⟨_, s.randomByte &&& nn, rfl, onlyReg_setReg s x _, fun k _ masked => ?_, fun k _ drawn => ?_,
    fun _ _ => randomByte_of_script⟩
  · rw [BitVec.getLsbD_and, masked, Bool.and_false]
  · rw [BitVec.getLsbD_and, drawn, Bool.and_true]

/-! ## A flag first, then one register -/

/-- The result of a flag writer may be given as a value that its second statement computes behind the flag (R170). -/
theorem flagAndReg_of_result {f : Bool} {x : Reg} {b : Byte} {result : State → Byte}
    (computes : result (s.setReg VF (flagByte f)) = b) : FlagAndReg f x b s (s.flagThen f x result) :=
  computes ▸ flagAndReg_flagThen s f x result

/-- Settles O9: the sum is formed before the flag is written. -/
theorem addRegistersSetsCarry : Obligations.AddRegistersSetsCarry := fun x y s =>
  ⟨_, _, rfl, BitVec.toNat_add (s.reg x) (s.reg y), flagAndReg_flagThen s _ x _⟩

/-- A difference of bytes borrows 256 where it must (R178). -/
theorem toNat_sub_byte (a b : Byte) : (a - b).toNat = (256 + a.toNat - b.toNat) % 256 := by
  have := b.isLt
  rw [BitVec.toNat_sub]; omega

/-- Settles O10: SUBN is SUB with the operands exchanged, each read behind the flag (D9). -/
theorem subtractionsSetNoBorrow : Obligations.SubtractionsSetNoBorrow := by
  intro x y s
  refine ⟨⟨_, _, rfl, toNat_sub_byte _ _, flagAndReg_of_result ?_⟩, ⟨_, _, rfl, toNat_sub_byte _ _, flagAndReg_of_result ?_⟩⟩
  all_goals rw [s.reg_behind_flag, s.reg_behind_flag]

/-- Bit 0 of a byte is its parity. -/
theorem shiftedOutRight_eq_decide (a : Byte) : shiftedOutRight a = decide (a.toNat % 2 = 1) := Nat.testBit_zero a.toNat

/-- Bit 7 of a byte is set from 128 on. -/
theorem shiftedOutLeft_eq_decide (a : Byte) : shiftedOutLeft a = decide (a.toNat ≥ 128) := by
  rw [shiftedOutLeft, ← BitVec.msb_eq_getLsbD_last, BitVec.msb_eq_decide]

theorem toNat_shiftRight_one (a : Byte) : (a >>> 1).toNat = a.toNat / 2 := by
  rw [BitVec.toNat_ushiftRight, Nat.shiftRight_one]

theorem toNat_shiftLeft_one (a : Byte) : (a <<< 1).toNat = a.toNat * 2 % 256 := by
  rw [BitVec.toNat_shiftLeft, Nat.shiftLeft_eq]

/-- Settles O11: the flag is the bit that the shift drops, and the shift reads `V[x]` behind it (D9). -/
theorem shiftsReportBitOut : Obligations.ShiftsReportBitOut := by
  intro x y s
  rw [← shiftedOutRight_eq_decide, ← shiftedOutLeft_eq_decide]
  refine ⟨⟨_, _, rfl, toNat_shiftRight_one _, flagAndReg_of_result ?_⟩,
    ⟨_, _, rfl, toNat_shiftLeft_one _, flagAndReg_of_result ?_⟩⟩
  all_goals rw [s.reg_behind_flag]

end Sys2Proof.Machine
end

section
/-! PROOFS. The index register and memory: `I` loaded and added to, and the data block at `I` stored and loaded, or MEM_OOB. -/

namespace Sys2Proof.Machine

variable {s t : State} {i : Instr}

/-! ## The index register -/

/-- 16 bits hold every glyph address, for a digit that is not masked (R202). -/
theorem glyphAddr_toNat (b : Byte) : (glyphAddr b).toNat = 0x050 + 5 * b.toNat := by
  have := b.isLt
  rw [glyphAddr, BitVec.toNat_ofNat]; omega

/-- Settles O19. -/
theorem loadIndexAndGlyphAddress : Obligations.LoadIndexAndGlyphAddress := fun nnn x s =>
  ⟨⟨_, rfl, zext16_toNat nnn, unchangedBut_setIndex s _⟩, ⟨_, rfl, glyphAddr_toNat (s.reg x), unchangedBut_setIndex s _⟩⟩

/-- The mask of R201 is a remainder, and a carry out of bit 15 is a multiple of 4096. -/
theorem maskedSum_toNat (a : Word) (b : Byte) : ((a + b.setWidth 16) &&& 0x0FFF).toNat = (a.toNat + b.toNat) % 4096 := by
  have := b.isLt
  have masked : ((a + b.setWidth 16) &&& 0x0FFF).toNat = (a + b.setWidth 16).toNat % 4096 :=
    Laws.toNat_and_low _ (k := 12) (by omega)
  rw [masked, BitVec.toNat_add, BitVec.toNat_setWidth]; omega

/-- Settles O20: the flag is that of the untruncated sum, and the sum that is masked reads `V[x]` behind it (D9). -/
theorem addIndexWrapsAndFlags : Obligations.AddIndexWrapsAndFlags := by
  intro x s
  refine ⟨_, rfl, s.reg_setReg_same VF _, ?_, fun r other => s.reg_setReg_other _ other, ?_⟩
  · rw [State.setIndex_index, maskedSum_toNat, s.reg_behind_flag]; rfl
  · exact ((unchangedBut_setReg s VF _).trans (unchangedBut_setIndex _ _)).mono (by simp)

/-! ## The data block at `I` -/

/-- An instruction that checks a block of `n + 1` bytes raises MEM_OOB where the block leaves memory (R66, R271). -/
theorem exists_memOob_of_outside {n : Nat} (checks : ∀ r, s.dataFault (n + 1) = some r → exec i s = .next (s.raise r))
    (outside : s.index.toNat + n > 0xFFF) : ∃ t, exec i s = .next t ∧ FaultedFrom .memOob (s.pc - 2) s t :=
  ⟨_, checks _ (s.dataFault_eq_some.2 ⟨by omega, by omega, rfl⟩), faultedFrom_raise s _⟩

/-- An instruction that stores within a block changes no byte outside it. -/
theorem Completes.memoryBut {a n : Nat} (ends : Completes i s t) (block : ∀ p, i.stores s p → a ≤ p ∧ p < a + n) :
    MemoryBut a n s t := by
  obtain ⟨-, -, bytes⟩ := ends
  exact fun p outside => bytes p (mt (block p) outside)

/-! ## The decimal digits -/

theorem hundreds_toNat (b : Byte) : (hundreds b).toNat = b.toNat / 100 := by
  have := b.isLt
  rw [hundreds, BitVec.toNat_ofNat]; omega

theorem tens_toNat (b : Byte) : (tens b).toNat = b.toNat / 10 % 10 := by
  rw [tens, BitVec.toNat_ofNat]; omega

theorem units_toNat (b : Byte) : (units b).toNat = b.toNat % 10 := by
  rw [units, BitVec.toNat_ofNat]; omega

theorem byteBehindDigits_block (s : State) (x : Reg) :
    s.byteBehindDigits x s.index.toNat = hundreds (s.reg x) ∧
    s.byteBehindDigits x (s.index.toNat + 1) = tens (s.reg x) ∧
    s.byteBehindDigits x (s.index.toNat + 2) = units (s.reg x) := by
  simp [State.byteBehindDigits, State.dataAddr]

/-- Settles O21: the check passes and the block at `I` holds the digits, or the check faults. -/
theorem storeDecimalDigits : Obligations.StoreDecimalDigits := by
  intro x s
  refine ⟨fun inside => ?_, exists_memOob_of_outside fun r fault => by simp only [exec, execLdB, fault]⟩
  have ends := completes_ldB x s (hundreds (s.reg x)) (tens (s.reg x)) (units (s.reg x))
  obtain ⟨first, second, third⟩ := byteBehindDigits_block s x
  refine ⟨_, exec_ldB_of_inside inside, ?_, ?_, ?_, ends.memoryBut ?_, ends.1⟩
  · rw [byteAt_storeDigits_eq_byteBehindDigits inside, first, hundreds_toNat]
  · rw [byteAt_storeDigits_eq_byteBehindDigits inside, second, tens_toNat]
  · rw [byteAt_storeDigits_eq_byteBehindDigits inside, third, units_toNat]
  · rintro _ ⟨k, lt, rfl⟩
    unfold State.dataAddr; omega

/-! ## The register block -/

theorem byteAt_storeRegs_block {x k : Reg} (inside : s.index.toNat + x.val ≤ 0xFFF) (le : k.val ≤ x.val) :
    (s.storeRegs (x.val + 1)).byteAt (s.index.toNat + k.val) = s.reg k := by
  rw [s.byteAt_storeRegs _ _ (by omega), if_pos (by omega), Nat.add_sub_cancel_left, Fin.ofNat_val_eq_self]

/-- Settles O22: the check passes and the block at `I` holds the registers, or the check faults. -/
theorem storeRegisterBlock : Obligations.StoreRegisterBlock := by
  intro x s
  refine ⟨fun inside => ?_, exists_memOob_of_outside fun r fault => by simp only [exec, execStRegs, fault]⟩
  have ends : Completes (.stRegs x) s (s.storeRegs (x.val + 1)) := completes_stRegs (by omega)
  refine ⟨_, exec_stRegs_of_inside inside, fun k le => byteAt_storeRegs_block inside le, ends.memoryBut ?_, ends.1⟩
  rintro _ ⟨k, le, rfl⟩
  unfold State.dataAddr; omega

theorem exec_ldRegs_of_inside {x : Reg} (inside : s.index.toNat + x.val ≤ 0xFFF) :
    exec (.ldRegs x) s = .next (s.loadRegs (x.val + 1)) := by
  simp only [exec, execLdRegs, s.dataFault_eq_none.2 (.inr (by omega : s.index.toNat + (x.val + 1) ≤ 0x1000))]

theorem reg_loadRegs_block (s : State) {x k : Reg} (le : k.val ≤ x.val) :
    (s.loadRegs (x.val + 1)).reg k = s.byteAt (s.index.toNat + k.val) := by
  rw [s.reg_loadRegs _ k (by omega), if_pos (by omega)]

/-- Settles O23: the check passes and the registers hold the block at `I`, or the check faults. -/
theorem loadRegisterBlock : Obligations.LoadRegisterBlock := by
  intro x s
  refine ⟨fun inside => ?_, exists_memOob_of_outside fun r fault => by simp only [exec, execLdRegs, fault]⟩
  obtain ⟨frame, others, -⟩ := completes_ldRegs x s
  exact ⟨_, exec_ldRegs_of_inside inside, fun k le => reg_loadRegs_block s le, fun k above => others k (not_le.2 above), frame⟩

/-- Settles O24: the store keeps `I`, so the load reads the block that the store wrote. -/
theorem storeThenLoadReproduces : Obligations.StoreThenLoadReproduces := by
  intro x s v inside
  obtain ⟨t, stored, bytes, -, kept⟩ := (storeRegisterBlock x s).1 inside
  have sameIndex : t.index = s.index := kept .index (by decide)
  obtain ⟨u, loaded, block, above, -⟩ := (loadRegisterBlock x { t with v := v }).1 (sameIndex ▸ inside)
  refine ⟨t, u, stored, loaded, fun k => ?_⟩
  split
  case isTrue le =>
    calc u.reg k = t.byteAt (t.index.toNat + k.val) := block k le
      _ = t.byteAt (s.index.toNat + k.val) := by rw [sameIndex]
      _ = s.reg k := bytes k le
  case isFalse beyond => exact above k (not_le.1 beyond)

end Sys2Proof.Machine
end

section
/-! PROOFS. Display: `00E0` blanks the buffer, and a `Dxyn` inverts the cells it touches and reports a collision, or faults with nothing
drawn. -/

namespace Sys2Proof.Machine

variable {s : State} {x y : Reg} {n : BitVec 4} {w : Word}

/-- Settles O26. -/
theorem clearDisplay : Obligations.ClearDisplay := fun s =>
  ⟨_, rfl, fun k _ => Display.cell_blank k, unchangedBut_setDisp s _⟩

/-! ## One draw -/

/-- What a `Dxyn` without a fault leaves: the composed buffer, and the collision flag in `VF` (R221, R227). -/
def State.drawn (s : State) (x y : Reg) (n : BitVec 4) : State :=
  (s.setDisp (composite s.disp (s.drawnCells x y n)).1).setReg VF (flagByte (composite s.disp (s.drawnCells x y n)).2)

theorem exec_drw_of_drawable (h : s.drawable x y n) : exec (.drw x y n) s = .next (s.drawn x y n) := by
  simp only [exec, execDrw, drawFault_eq_none.2 h]; rfl

/-- The cells touched are in the buffer and distinct, so each is inverted once. -/
theorem cell_drawn (s : State) (x y : Reg) (n : BitVec 4) (k : Nat) :
    (s.drawn x y n).disp.cell k = (s.disp.cell k ^^ decide (k ∈ s.drawnCells x y n)) :=
  (composite_fold _ (s.disp, false) drawnCells_inside drawnCells_nodup).1 k

theorem cell_drawn_of_touches {k : Nat} (h : s.drawable x y n) (hit : s.touches x y n k) :
    (s.drawn x y n).disp.cell k = !s.disp.cell k := by
  simp [cell_drawn, mem_drawnCells_of_drawable h, hit]

theorem cell_drawn_of_not_touches {k : Nat} (h : s.drawable x y n) (miss : ¬ s.touches x y n k) :
    (s.drawn x y n).disp.cell k = s.disp.cell k := by
  simp [cell_drawn, mem_drawnCells_of_drawable h, miss]

theorem flagByte_eq_one {f : Bool} : flagByte f = 1 ↔ f = true := by cases f <;> decide

theorem flagByte_eq_zero {f : Bool} : flagByte f = 0 ↔ f = false := by cases f <;> decide

theorem reg_VF_drawn (s : State) (x y : Reg) (n : BitVec 4) :
    (s.drawn x y n).reg VF = flagByte ((s.drawnCells x y n).any s.disp.cell) := by
  obtain ⟨-, flag⟩ := composite_fold (s.drawnCells x y n) (s.disp, false) drawnCells_inside drawnCells_nodup
  rw [State.drawn, State.reg_setReg_same, composite, flag, Bool.false_or]

theorem reg_drawn_other {r : Reg} (other : r ≠ VF) : (s.drawn x y n).reg r = s.reg r := State.reg_setReg_other _ _ other

/-- The collisions of a draw, in the terms of claims. -/
theorem any_drawnCells (h : s.drawable x y n) :
    (s.drawnCells x y n).any s.disp.cell = true ↔ ∃ k, s.touches x y n k ∧ s.disp.cell k = true := by
  simp only [List.any_eq_true, mem_drawnCells_of_drawable h]

/-! ## A draw that faults -/

theorem exists_fault_of_drawFault {c : FaultCause} (h : ∃ r, s.drawFault x y n = some r ∧ r.cause = c) :
    ∃ t, exec (.drw x y n) s = .next t ∧ FaultedFrom c (s.pc - 2) s t := by
  obtain ⟨r, fault, rfl⟩ := h
  exact ⟨s.raise r, by simp only [exec, execDrw, fault], faultedFrom_raise s r⟩

theorem drawFault_memOob (nonempty : n ≠ 0) (outside : s.index.toNat + n.toNat > 0x1000) :
    ∃ r, s.drawFault x y n = some r ∧ r.cause = .memOob := by
  have rows : 0 < n.toNat := by bv_omega
  have fault := s.dataFault_eq_some.2 ⟨rows, outside, rfl⟩
  exact ⟨_, by rw [State.drawFault, fault], rfl⟩

theorem drawFault_displayOob (inside : n = 0 ∨ s.index.toNat + n.toNat ≤ 0x1000) (linear : s.cfg.drawEdgeMode = .linear)
    (beyond : ∃ k, s.touches x y n k ∧ k > 2047) : ∃ r, s.drawFault x y n = some r ∧ r.cause = .displayOob := by
  have bytes : s.dataFault n.toNat = none := s.dataFault_eq_none.2 (inside.imp_left fun e => by simp [e])
  cases fault : displayFault s.cfg.drawEdgeMode (s.originX x) (s.originY y) (s.spriteRows n.toNat) with
  | none =>
    obtain ⟨k, hit, high⟩ := beyond
    exact absurd (displayFault_eq_none_iff_touches.1 fault linear k hit) (by omega)
  | some r => exact ⟨r, by rw [State.drawFault, bytes]; exact fault, displayFault_cause fault⟩

/-- Settles O27: a drawable sprite is composed cell by cell, and the two checks that make it drawable fault otherwise. -/
theorem drawInvertsTouchedCells : Obligations.DrawInvertsTouchedCells := by
  intro x y n s
  refine ⟨fun h => ?_, fun nonempty outside => exists_fault_of_drawFault (drawFault_memOob nonempty outside),
    fun inside linear beyond => exists_fault_of_drawFault (drawFault_displayOob inside linear beyond)⟩
  obtain ⟨frame, others, -⟩ := completes_drw x y n s _ _
  refine ⟨_, exec_drw_of_drawable h, fun _ _ => cell_drawn_of_touches h, fun _ _ => cell_drawn_of_not_touches h,
    fun collision => ?_, fun noCollision => ?_, others, frame⟩
  · rw [reg_VF_drawn, flagByte_eq_one, any_drawnCells h]; exact collision
  · rw [reg_VF_drawn, flagByte_eq_zero, ← Bool.not_eq_true, any_drawnCells h]; exact noCollision

/-! ## Two draws -/

/-- A draw keeps the origin, the sprite and the mode, unless its own flag is a coordinate of the origin. -/
theorem drawnCells_drawn (hx : x ≠ VF) (hy : y ≠ VF) : (s.drawn x y n).drawnCells x y n = s.drawnCells x y n := by
  rw [State.drawnCells, State.originX, State.originY, reg_drawn_other hx, reg_drawn_other hy]; rfl

theorem touches_drawn (hx : x ≠ VF) (hy : y ≠ VF) (k : Nat) : (s.drawn x y n).touches x y n k ↔ s.touches x y n k := by
  rw [State.touches, reg_drawn_other hx, reg_drawn_other hy]; rfl

theorem drawable_drawn (hx : x ≠ VF) (hy : y ≠ VF) (h : s.drawable x y n) : (s.drawn x y n).drawable x y n :=
  ⟨h.1, fun linear k hit => h.2 linear k ((touches_drawn hx hy k).1 hit)⟩

/-- Settles O28: the second draw inverts the same cells again, and collides where the first has lit one. -/
theorem drawTwiceRestores : Obligations.DrawTwiceRestores := by
  intro x y n s hx hy h
  have h' := drawable_drawn hx hy h
  refine ⟨_, _, exec_drw_of_drawable h, exec_drw_of_drawable h', Display.ext_cell fun k _ => ?_, ?_⟩
  · rw [cell_drawn, drawnCells_drawn hx hy, cell_drawn, Bool.xor_assoc, Bool.xor_self, Bool.xor_false]
  · rw [reg_VF_drawn, flagByte_eq_one, any_drawnCells h']
    refine exists_congr fun k => ?_
    rw [touches_drawn hx hy]
    exact and_congr_right fun hit => by rw [cell_drawn_of_touches h hit, Bool.not_eq_true']

/-! ## The edge modes -/

/-- Eight columns and at most 32 rows land on distinct cells, also where they wrap (R226). -/
theorem landsOn_injective {mode : DrawEdgeMode} {x0 y0 r c r' c' k : Nat} (rows : r < 32 ∧ r' < 32) (columns : c < 8 ∧ c' < 8)
    (lands : LandsOn mode x0 y0 r c k) (lands' : LandsOn mode x0 y0 r' c' k) : r = r' ∧ c = c' := by
  cases mode <;> simp only [LandsOn] at lands lands' <;> omega

/-- The set bits of the sprite lie inside the grid from the origin (R226). -/
def State.spriteInsideGrid (s : State) (x y : Reg) (n : BitVec 4) : Prop :=
  ∀ r c, s.spriteBit n.toNat r c → s.originX x + c ≤ 63 ∧ s.originY y + r ≤ 31

/-- Inside the grid every edge mode computes the linear index. -/
theorem cellIndex_of_inside (mode : DrawEdgeMode) {x0 y0 : Nat} {p : Nat × Nat} (column : x0 + p.2 ≤ 63)
    (row : y0 + p.1 ≤ 31) : cellIndex mode x0 y0 p = some (linearIndex x0 y0 p) := by
  cases mode with
  | linear => exact if_pos (by unfold linearIndex; omega)
  | wrap => simp only [cellIndex, linearIndex, Option.some.injEq]; omega
  | clip => exact if_neg (by omega)

/-- The state with another edge mode. -/
def State.withEdgeMode (s : State) (mode : DrawEdgeMode) : State := { s with cfg := { s.cfg with drawEdgeMode := mode } }

theorem drawnCells_withEdgeMode (mode : DrawEdgeMode) (inside : s.spriteInsideGrid x y n) :
    (s.withEdgeMode mode).drawnCells x y n = s.drawnCells x y n := by
  refine List.filterMap_congr fun p bit => ?_
  obtain ⟨column, row⟩ := inside _ _ ((mem_pixelsFrom_spriteRows s).1 bit)
  exact (cellIndex_of_inside mode column row).trans (cellIndex_of_inside _ column row).symm

theorem drawn_withEdgeMode (mode : DrawEdgeMode) (inside : s.spriteInsideGrid x y n) :
    (s.withEdgeMode mode).drawn x y n = (s.drawn x y n).withEdgeMode mode := by
  rw [State.drawn, drawnCells_withEdgeMode mode inside]; rfl

theorem drawable_of_inside (bytes : n = 0 ∨ s.index.toNat + n.toNat ≤ 0x1000) (inside : s.spriteInsideGrid x y n) :
    s.drawable x y n := by
  refine ⟨bytes, fun linear k ⟨r, c, bit, lands⟩ => ?_⟩
  obtain ⟨column, row⟩ := inside r c bit
  rw [linear] at lands
  simp only [LandsOn, State.originX, State.originY] at lands column row
  omega

/-- Settles O29: bits apart land apart in each mode, and inside the grid the modes draw the same list of cells. -/
theorem edgeModesAgreeInsideGrid : Obligations.EdgeModesAgreeInsideGrid := by
  refine ⟨fun s mode n x0 y0 r c r' c' k ⟨row, column, _⟩ ⟨row', column', _⟩ => ?_, fun x y n s mode bytes inside => ?_⟩
  · exact landsOn_injective ⟨by omega, by omega⟩ ⟨column, column'⟩
  · have there : (s.withEdgeMode mode).drawable x y n := drawable_of_inside bytes inside
    exact ⟨_, _, exec_drw_of_drawable (drawable_of_inside bytes inside), exec_drw_of_drawable there,
      drawn_withEdgeMode mode inside⟩

/-! ## The frame pulse -/

/-- The pulse looks at the group, and the group alone makes a `Dxyn` (R93, R228). -/
theorem fieldGroup_eq_D_iff : fieldGroup w = 0xD ↔ ∃ x y n, decodeWord w = .ok (.drw x y n) := by
  constructor
  · intro group
    exact ⟨fieldX w, fieldY w, fieldN w, by rw [decodeWord, group]; rfl⟩
  · rintro ⟨x, y, n, decoded⟩
    obtain ⟨-, rfl⟩ := wf_and_encode_of_decodeWord decoded
    exact fieldGroup_wordXYN (by decide) x y n

theorem retire_frameReady (u : State) (w : Word) :
    (u.retire w).frameReady = true ↔ u.runState ≠ .faulted ∧ fieldGroup w = 0xD := by
  simp [State.retire, State.latch, State.phaseP, apply_ite State.runState]

theorem behindTK_frameReady (s : State) : s.behindTK.frameReady = false := by
  obtain ⟨k, e⟩ := s.behindTK_eq
  rw [e]

/-- Settles O49: a step that runs no instruction leaves the output low, and an instruction's slot pulses by group and fault. -/
theorem frameReadyOncePerDraw : Obligations.FrameReadyOncePerDraw := by
  intro s t h
  have noPulse {P : Prop} (low : t.frameReady = false) (not : ¬ P) : t.frameReady = true ↔ P :=
    iff_of_false (by simp [low]) not
  cases step_cases h with
  | reset on eq => exact noPulse (eq ▸ rfl) (by simp [on])
  | idle _ run eq => exact noPulse (eq ▸ unchangedBut_idle s.beginStep .frameReady (by decide)) (by simp [run])
  | quit _ _ q eq => exact noPulse (eq ▸ behindTK_frameReady s) fun ⟨_, _, quitFree, _⟩ => quitFree q
  | fetchOob _ _ _ beyond eq => exact noPulse (eq ▸ behindTK_frameReady s) fun ⟨_, _, _, fetched, _⟩ => by omega
  | wait _ run eq => exact noPulse (eq ▸ unchangedBut_wake s.beginStep .frameReady (by decide)) (by simp [run])
  | halted _ run eq => exact noPulse (eq ▸ rfl) (by rcases run with run | run <;> simp [run])
  | @instr off i u slot =>
    have ended : t.runState = u.runState := slot.unchangedBut_end .runState (by decide)
    rw [ended, slot.retired, State.endStep_frameReady, retire_frameReady, fieldGroup_eq_D_iff]
    simp only [off, slot.running, slot.quitFree, slot.fetched, true_and, and_comm]

end Sys2Proof.Machine
end

section
/-! PROOFS. Keypad and timers: a finished program counts its timers down, and the key skips, the key wait and the timer moves. -/

namespace Sys2Proof.Machine

variable {s t : State}

/-! ## A finished program -/

/-- The slot of a self-jump: the jump takes `pc` back to where it was, and phases T and K have done all the rest (R151, R331). -/
theorem step_of_atEnd (ends : s.atEnd) (off : s.input.reset = false) (q : s.quitFree) :
    step s = .next (s.behindTK.retire s.wordAtPc).endStep := by
  obtain ⟨run, inside, nnn, target, word⟩ := ends
  have decoded : decodeWord s.wordAtPc = .ok (.jp nnn) := word ▸ decodeWord_encode rfl
  have back : exec (.jp nnn) s.behindTK.advance = .next s.behindTK := by
    change Host.Outcome.next (s.behindTK.setPc (zext16 nnn)) = _
    rw [target, ← s.behindTK_pc]; rfl
  exact step_of_instr off run q (by omega) decoded back

theorem atEnd_congr (run : Part.runState.same s t) (pc : Part.pc.same s t) (mem : Part.mem.same s t) (ends : s.atEnd) :
    t.atEnd := by
  unfold State.atEnd State.wordAtPc
  rwa [show t.runState = _ from run, show t.pc = _ from pc, mem, mem]

/-- The end of a slot writes nothing that a finished program depends on. -/
theorem atEnd_behindTK_retire_endStep (w : Word) (ends : s.atEnd) (q : s.quitFree) : (s.behindTK.retire w).endStep.atEnd := by
  have ended := (unchangedBut_retire s.behindTK w).trans (unchangedBut_endStep _)
  have frame := (unchangedBut_behindTK s).trans ended
  have run : s.behindTK.runState = s.runState := (s.behindTK_running ends.1 q).trans ends.1.symm
  exact atEnd_congr ((ended .runState (by decide)).trans run) (frame .pc (by decide)) (frame .mem (by decide)) ends

/-- One slot of a finished program: it is still finished, its input is used up, no event is left, and each timer has counted the
tick if one was due (R122, R246, R331). -/
theorem exists_step_of_atEnd (ends : s.atEnd) (off : s.input.reset = false) (q : s.quitFree) :
    ∃ t, step s = .next t ∧ t.atEnd ∧ t.pending = [] ∧ t.script = s.script.tail ∧
      t.dt.toNat = s.dt.toNat - (if s.input.tickDue then 1 else 0) ∧
      t.st.toNat = s.st.toNat - (if s.input.tickDue then 1 else 0) := by
  obtain ⟨dt, st, -, pending, -, phases⟩ := tickThenKeysBeforeInstruction s
  have ended := unchangedBut_retire s.behindTK s.wordAtPc
  refine ⟨_, step_of_atEnd ends off q, atEnd_behindTK_retire_endStep _ ends q, ?_, ?_, ?_, ?_⟩
  · exact (ended .pending (by decide)).trans pending
  · exact congrArg List.tail ((ended .script (by decide)).trans (phases .script (by decide)))
  · exact (congrArg BitVec.toNat (ended .dt (by decide))).trans dt
  · exact (congrArg BitVec.toNat (ended .st (by decide))).trans st

theorem steps_succ (n : Nat) (first : step s = .next t) : steps (n + 1) s = steps n t := by
  rw [steps, first]

/-- The induction over the fixed inputs: each slot uses one up and counts its tick. -/
theorem steps_of_atEnd (script : List StepInput) (ends : s.atEnd) (queued : HostEvent.quit ∉ s.pending)
    (fixed : s.script = script) (calm : ∀ inp ∈ script, inp.reset = false ∧ HostEvent.quit ∉ inp.events) :
    ∃ t, steps script.length s = .next t ∧ t.atEnd ∧ t.script = [] ∧
      t.dt.toNat = s.dt.toNat - script.countP (·.tickDue) ∧ t.st.toNat = s.st.toNat - script.countP (·.tickDue) := by
  induction script generalizing s with
  | nil => exact ⟨s, rfl, ends, fixed, rfl, rfl⟩
  | cons inp rest ih =>
    obtain ⟨⟨off, quiet⟩, calmRest⟩ := List.forall_mem_cons.1 calm
    have input : s.input = inp := by rw [State.input, fixed]
    have q : s.quitFree := by
      rw [State.quitFree, State.arrived, input, List.mem_append]
      exact not_or.2 ⟨queued, quiet⟩
    obtain ⟨t, stepped, still, none, scriptLeft, dt, st⟩ := exists_step_of_atEnd ends (input ▸ off) q
    obtain ⟨u, ran, finished, usedUp, dtRest, stRest⟩ :=
      ih still (none ▸ List.not_mem_nil) (by rw [scriptLeft, fixed, List.tail_cons]) calmRest
    rw [input] at dt st
    refine ⟨u, (steps_succ _ stepped).trans ran, finished, usedUp, ?_, ?_⟩
    · rw [dtRest, dt, List.countP_cons]; omega
    · rw [stRest, st, List.countP_cons]; omega

/-- Settles O54. -/
theorem finishedProgramCountsDown : Obligations.FinishedProgramCountsDown := fun s ends queued calm =>
  steps_of_atEnd s.script ends queued rfl calm

/-! ## The key skips -/

theorem exec_skp_of_key {x : Reg} {k : KeyNum} (key : (s.reg x).toNat = k.val) :
    exec (.skp x) s = .next (s.skipIf (s.keyPressed k)) := by
  simp only [exec, execSkp, s.keyOperand_ok.2 key]

theorem exec_sknp_of_key {x : Reg} {k : KeyNum} (key : (s.reg x).toNat = k.val) :
    exec (.sknp x) s = .next (s.skipIf (!s.keyPressed k)) := by
  simp only [exec, execSknp, s.keyOperand_ok.2 key]

theorem exec_skp_of_no_key {x : Reg} (above : (s.reg x).toNat > 15) :
    exec (.skp x) s = .next (s.raise ⟨.keyIndex, (s.reg x).toNat⟩) := by
  simp only [exec, execSkp, s.keyOperand_error.2 ⟨above, rfl⟩]

theorem exec_sknp_of_no_key {x : Reg} (above : (s.reg x).toNat > 15) :
    exec (.sknp x) s = .next (s.raise ⟨.keyIndex, (s.reg x).toNat⟩) := by
  simp only [exec, execSknp, s.keyOperand_error.2 ⟨above, rfl⟩]

theorem skipIf_pc (s : State) (c : Bool) : (s.skipIf c).pc = if c then s.pc + 2 else s.pc := by
  rw [State.skipIf_eq, State.setPc_pc]

theorem skipIf_not_pc (s : State) (c : Bool) : (s.skipIf (!c)).pc = if c then s.pc else s.pc + 2 := by
  cases c <;> rfl

/-- Settles O30: the key operand decides between the skip and the fault. -/
theorem keySkips : Obligations.KeySkips := by
  intro x s
  refine ⟨fun k key => ⟨?_, ?_⟩, fun above => ⟨?_, ?_⟩⟩
  · exact ⟨_, exec_skp_of_key key, unchangedBut_skipIf s _, skipIf_pc s _⟩
  · exact ⟨_, exec_sknp_of_key key, unchangedBut_skipIf s _, skipIf_not_pc s _⟩
  · exact ⟨_, exec_skp_of_no_key above, faultedFrom_raise s _⟩
  · exact ⟨_, exec_sknp_of_no_key above, faultedFrom_raise s _⟩

/-! ## Ticks -/

theorem unchangedBut_tick (s : State) : UnchangedBut [.dt, .st] s s.tick := by
  intro p hp; cases p <;> simp_all [Part.same, State.tick, State.reg, State.byteAt]

theorem tick_dt_toNat (s : State) : s.tick.dt.toNat = s.dt.toNat - 1 := tickIf_toNat true s.dt

theorem tick_st_toNat (s : State) : s.tick.st.toNat = s.st.toNat - 1 := tickIf_toNat true s.st

/-- The sound is on exactly while the sound timer is not 0 (R245, R291). -/
theorem soundActive_iff (s : State) : s.soundActive = true ↔ s.st ≠ 0 := bne_iff_ne

theorem soundActive_iff_pos (s : State) : s.soundActive = true ↔ 0 < s.st.toNat := by
  rw [soundActive_iff]; bv_omega

/-- By induction on the number of ticks: each one counts both timers and touches nothing else. -/
theorem timers_iterate_tick (n : Nat) (s : State) : (State.tick^[n] s).dt.toNat = s.dt.toNat - n ∧
    (State.tick^[n] s).st.toNat = s.st.toNat - n ∧ UnchangedBut [.dt, .st] s (State.tick^[n] s) := by
  induction n with
  | zero => exact ⟨rfl, rfl, (unchangedBut_refl s).mono nofun⟩
  | succ n ih =>
    obtain ⟨dt, st, frame⟩ := ih
    rw [Function.iterate_succ_apply', tick_dt_toNat, tick_st_toNat, dt, st]
    exact ⟨by omega, by omega, (frame.trans (unchangedBut_tick _)).mono (by decide)⟩

/-- Settles O33. -/
theorem ticksCountDownToZero : Obligations.TicksCountDownToZero := by
  intro n s
  obtain ⟨dt, st, frame⟩ := timers_iterate_tick n s
  have sound : (State.tick^[n] s).soundActive = true ↔ n < s.st.toNat := by
    rw [soundActive_iff_pos, st]; omega
  exact ⟨dt, st, sound, frame⟩

/-! ## The key wait -/

/-- A slot that fetches an `Fx0A` ends in the wait, behind the instruction and with its word in `IR` (R33, R131). -/
theorem step_of_ldVxK {x : Reg} (off : s.input.reset = false) (run : s.runState = .running) (q : s.quitFree)
    (fetched : s.pc.toNat ≤ 0xFFE) (word : s.wordAtPc = encode (.ldVxK x)) :
    ∃ t, step s = .next t ∧ t.runState = .waitKey ∧ t.pc = s.pc + 2 ∧ fieldX t.ir = x := by
  have decoded : decodeWord s.wordAtPc = .ok (.ldVxK x) := word ▸ decodeWord_encode rfl
  have waiting : (s.behindTK.advance.setRun .waitKey).runState ≠ .faulted := nofun
  have stepped := step_of_instr off run q fetched decoded rfl
  rw [State.retire_of_not_faulted _ _ waiting] at stepped
  have register : fieldX s.wordAtPc = x := word ▸ fieldX_wordXNN (by decide) x 0x0A
  exact ⟨_, stepped, rfl, executing_pc s, register⟩

/-- Settles O44: the wait begins with the instruction's word in `IR`, and the wake-up writes the register that `IR` names. -/
theorem keyWaitDeliversKey : Obligations.KeyWaitDeliversKey := by
  intro s x off run q fetched word
  obtain ⟨t, stepped, waiting, behind, named⟩ := step_of_ldVxK off run q fetched word
  refine ⟨t, stepped, waiting, behind, fun k es offNow first => ?_⟩
  obtain ⟨-, -, woken⟩ := wakeUpStep t offNow waiting
  obtain ⟨u, stepped', queue, running, keys, regs, frame⟩ := woken k es first
  simp only [← eq_fieldX_iff, named] at regs
  have delivered : (u.reg x).toNat = k.val := (regs x).trans (if_pos rfl)
  have others (r : Reg) (other : r ≠ x) : u.reg r = t.reg r :=
    BitVec.eq_of_toNat_eq ((regs r).trans (if_neg other))
  exact ⟨u, stepped', running, delivered, others, (keys k).trans (if_pos rfl), (frame .pc (by decide)).trans behind,
    frame .dt (by decide), frame .st (by decide), queue⟩

/-- Settles O31. -/
theorem keyWaitBegins : Obligations.KeyWaitBegins := fun _ s => ⟨_, rfl, rfl, unchangedBut_setRun s _⟩

/-! ## The timer moves -/

/-- Settles O32. -/
theorem timerMoves : Obligations.TimerMoves := fun x s =>
  ⟨⟨_, rfl, onlyReg_setReg s x s.dt⟩, ⟨_, rfl, rfl, unchangedBut_setDt s _⟩,
    ⟨_, rfl, rfl, unchangedBut_setSt s _, soundActive_iff (s.setSt _)⟩⟩

end Sys2Proof.Machine
end

section
/-! PROOFS. Ignored encodings: the four classes run and change nothing. -/

namespace Sys2Proof.Machine

variable {i : Instr}

theorem exec_unchanged_of_ignored (s : State) (h : i.ignored = true) : ∃ t, exec i s = .next t ∧ UnchangedBut [] s t :=
  ⟨s, exec_of_ignored h, unchangedBut_refl s⟩

/-- Settles O34: each of the four classes is an ignored one. -/
theorem ignoredEncodingsDoNothing : Obligations.IgnoredEncodingsDoNothing := fun nnn x y n nn s =>
  have nop0 : (Instr.nop0 nnn).ignored = true := rfl
  have nop8 : (Instr.nop8 x y n).ignored = true := rfl
  have nopE : (Instr.nopE x nn).ignored = true := rfl
  have nopF : (Instr.nopF x nn).ignored = true := rfl
  ⟨exec_unchanged_of_ignored s nop0, exec_unchanged_of_ignored s nop8, exec_unchanged_of_ignored s nopE,
    exec_unchanged_of_ignored s nopF⟩

end Sys2Proof.Machine
end

section
/-! PROOFS. Exceptions and the outside: what a `Quit` does in each run state, and what the load port and `start` do. -/

namespace Sys2Proof.Machine

variable {s : State}

/-! ## The load port -/

/-- A byte of memory behind a list of writes: the last one to its address stands. -/
theorem Memory.get_loads (font : Vector Byte 80) (loads : List (Addr × Byte)) (m : Memory) (a : Nat) :
    (loads.foldl (fun m l => m.put font l.1.toNat l.2) m).get font a =
      ((loads.reverse.find? fun l => l.1.toNat == a).map Prod.snd).getD (m.get font a) := by
  induction loads generalizing m with
  | nil => rfl
  | cons l loads ih =>
    have inside : l.1.toNat ≤ 0xFFF := Nat.le_of_lt_succ l.1.isLt
    rw [List.foldl_cons, ih, List.reverse_cons, List.find?_append, Memory.get_put inside]
    cases loads.reverse.find? fun l => l.1.toNat == a with
    | some later => rfl
    | none => by_cases here : l.1.toNat = a <;> simp [here, eq_comm (a := a)]

/-- Every byte behind a step in IDLE (R289). -/
theorem byteAt_idle_eq (s : State) (a : Nat) : s.idle.byteAt a =
    ((s.input.loads.reverse.find? fun l => l.1.toNat == a).map Prod.snd).getD (s.byteAt a) := by
  rw [s.idle_eq]
  exact Memory.get_loads s.cfg.font s.input.loads s.mem a

/-- Settles O46. -/
theorem loadPortAndStart : Obligations.LoadPortAndStart := fun s off run =>
  ⟨_, step_of_idle s off run, byteAt_idle_eq s.beginStep, State.idle_runState (s := s.beginStep) run⟩

/-! ## Host events -/

/-- In IDLE, FAULTED and STOPPED neither the queue nor the events of the step reach the next state (R287). -/
theorem step_eq_of_events_discarded {es evs : List HostEvent} {script : List StepInput} (off : s.input.reset = false)
    (run : s.runState = .idle ∨ s.runState = .faulted ∨ s.runState = .stopped)
    (tail : script.tail = s.script.tail)
    (input : ({ s with pending := es, script } : State).input = { s.input with events := evs }) :
    step { s with pending := es, script } = step s := by
  have off' : ({ s with pending := es, script } : State).input.reset = false := by rw [input]; exact off
  rcases run with idle | halted
  · rw [step_of_idle s off idle, step_of_idle _ off' idle, State.idle_eq, State.idle_eq, State.beginStep_input,
      State.beginStep_input, input]
    simp [State.beginStep, State.endStep, tail]
  · rw [step_of_halted s off halted, step_of_halted _ off' halted]
    simp [State.beginStep, State.endStep, State.halted, State.setPending, tail]

/-- In WAIT_KEY a `Quit` taken stops the machine, and no key or register changes (R131, R288). -/
theorem step_of_waitKey_quit {es : List HostEvent} (off : s.input.reset = false) (run : s.runState = .waitKey)
    (first : s.arrived = .quit :: es) :
    step s = .next ((s.beginStep.setPending es).setRun .stopped).endStep := by
  rw [step_of_waitKey s off run, wake_of_arrived_cons (s := s.beginStep) first]; rfl

/-- Settles O42: phase K or the wake-up takes the `Quit`, and the other run states discard it. -/
theorem quitStopsTheMachine : Obligations.QuitStopsTheMachine := by
  intro s off
  obtain ⟨t, stepped⟩ := stepAlwaysAnswersNext s
  refine ⟨fun run quit => ?_, fun run head => ?_, fun es run => ?_, fun es evs inp rest fixed run => ?_⟩
  · exact ⟨_, step_of_quit s off run quit, State.behindTK_stopped quit,
      ((unchangedBut_behindTK s).trans (unchangedBut_endStep _)).mono (by decide)⟩
  · obtain ⟨es, first⟩ := List.head?_eq_some_iff.1 head
    have stopped := (unchangedBut_beginStep s).trans (unchangedBut_setPending _ es) |>.trans (unchangedBut_setRun _ .stopped)
    exact ⟨_, step_of_waitKey_quit off run first, rfl, (stopped.trans (unchangedBut_endStep _)).mono (by decide)⟩
  · have input : ({ s with pending := es } : State).input = { s.input with events := s.input.events } := rfl
    exact ⟨t, stepped, (step_eq_of_events_discarded off run rfl input).trans stepped⟩
  · have tail : ({ inp with events := evs } :: rest).tail = s.script.tail := by rw [fixed]; rfl
    have now : s.input = inp := by rw [State.input, fixed]
    exact ⟨t, stepped, (step_eq_of_events_discarded off run tail (by rw [now]; rfl)).trans stepped⟩

end Sys2Proof.Machine
end

section
/-! PROOFS. Reset and launch: what the reset line leaves, how an image comes to run, and that a finished program stays finished. -/

namespace Sys2Proof.Machine

variable {s t : State} (font : Vector Byte 80)

/-- A part listed as written that is the same after all. -/
theorem UnchangedBut.of_same {p : Part} {l : List Part} (h : UnchangedBut (p :: l) s t) (same : p.same s t) :
    UnchangedBut l s t := fun q kept =>
  if e : q = p then e ▸ same else h q (List.not_mem_cons_of_ne_of_not_mem e kept)

/-! ## Reset -/

theorem unlisted_font (k : Fin 80) : unlisted font (0x050 + k.val) = font[k] := by
  have inside : 0x050 ≤ 0x050 + k.val ∧ 0x050 + k.val < 0x0A0 := by omega
  simp [unlisted, inside]

theorem unlisted_outside_font {a : Nat} (outside : a < 0x050 ∨ 0x0A0 ≤ a) : unlisted font a = 0 :=
  dif_neg (by omega)

theorem reg_reset (r : Reg) : State.reset.reg r = 0 := Vector.getElem_replicate r.isLt

theorem stack_reset (k : Fin 16) : State.reset.stack[k] = 0 := Vector.getElem_replicate k.isLt

theorem keyPressed_reset (k : KeyNum) : State.reset.keyPressed k = false := Vector.getElem_replicate k.isLt

/-- Settles O48: what `assertReset` takes from the state it leaves is outside the hardware, and memory lists nothing behind it. -/
theorem resetFromAnyState : Obligations.ResetFromAnyState := fun s on =>
  have memory (a : Nat) : s.assertReset.endStep.byteAt a = unlisted s.cfg.font a := rfl
  ⟨_, step_of_reset s on, reg_reset, rfl, rfl, rfl, stack_reset, fun k => (memory _).trans (unlisted_font _ k),
    fun a outside => (memory a).trans (unlisted_outside_font _ outside), fun k _ => Display.cell_blank k, keyPressed_reset,
    rfl, rfl, rfl, rfl, rfl, rfl, rfl, rfl⟩

/-! ## Launch -/

/-- The image's loads go to different addresses: the load that stands at an address is the image's byte for it (R289). -/
theorem find_imageLoads {image : List Byte} (fits : image.length ≤ 3584) (a : Nat) :
    ((imageLoads image).reverse.find? fun l => l.1.toNat == a).map Prod.snd =
      if 0x200 ≤ a ∧ a < 0x200 + image.length then image[a - 0x200]? else none := by
  induction image using List.reverseRecOn with
  | nil => simp [imageLoads]
  | append_singleton image b ih =>
    rw [List.length_append, List.length_singleton] at fits ⊢
    have last : (BitVec.ofNat 12 (0x200 + image.length)).toNat = 0x200 + image.length := by
      rw [BitVec.toNat_ofNat]; omega
    have loads : imageLoads (image ++ [b]) = imageLoads image ++ [(BitVec.ofNat 12 (0x200 + image.length), b)] := by
      simp [imageLoads, List.zipIdx_append]
    rw [loads, List.reverse_concat, List.find?_cons, last]
    by_cases here : 0x200 + image.length = a
    · subst here; simp
    · rw [beq_false_of_ne here, ih (by omega)]
      by_cases inside : 0x200 ≤ a ∧ a < 0x200 + image.length
      · rw [if_pos inside, if_pos (by omega), List.getElem?_append_left (by omega)]
      · rw [if_neg inside, if_neg (by omega)]

/-- The image over what memory held before. -/
theorem byteAt_idle_imageLoads {image : List Byte} (fits : image.length ≤ 3584)
    (loads : s.input.loads = imageLoads image) (a : Nat) : s.idle.byteAt a =
      if 0x200 ≤ a ∧ a < 0x200 + image.length then image[a - 0x200]?.getD 0 else s.byteAt a := by
  rw [byteAt_idle_eq, loads, find_imageLoads fits]
  split
  · rw [List.getElem?_eq_getElem (by omega)]; rfl
  · rfl

theorem idle_pending (s : State) : s.idle.pending = [] := by rw [s.idle_eq]

/-- A turn of the load port from the state of R38 leaves the queue and the pulse as they are after reset. -/
theorem unchangedBut_reset_idle_step (fresh : UnchangedBut [.mem, .cfg, .script] State.reset s) :
    UnchangedBut [.mem, .runState, .cfg, .script, .time] State.reset s.beginStep.idle.endStep :=
  have pulse : s.beginStep.idle.endStep.frameReady = false := unchangedBut_idle s.beginStep .frameReady (by decide)
  have frame : UnchangedBut [.pending, .frameReady, .mem, .runState, .cfg, .script, .time] State.reset
      s.beginStep.idle.endStep := (fresh.trans (unchangedBut_idle_step s)).mono (by decide)
  (frame.of_same (idle_pending s.beginStep)).of_same pulse

/-- From the state of R38, with memory as after a reset, one turn with an image's loads and `start` is the launch (R289, R322). -/
theorem launchedWith_idle_step {image : List Byte} (nonempty : 1 ≤ image.length) (fits : image.length ≤ 3584)
    (fresh : UnchangedBut [.mem, .cfg, .script] State.reset s) (blank : ∀ a, s.byteAt a = unlisted s.cfg.font a)
    (start : s.input.start = true) (loads : s.input.loads = imageLoads image) :
    s.beginStep.idle.endStep.launchedWith image := by
  have idle : s.runState = .idle := fresh .runState (by decide)
  refine ⟨nonempty, fits, ?_, fun a => ?_, unchangedBut_reset_idle_step fresh⟩
  · exact (State.idle_runState (s := s.beginStep) idle).trans (if_pos start)
  · rw [unchangedBut_idle_step s .cfg (by decide), ← blank a]
    exact byteAt_idle_imageLoads (s := s.beginStep) fits loads a

/-- Settles O47: `State.reset` with other parameters and inputs meets the premises of `launchedWith_idle_step`. -/
theorem launchFromReset : Obligations.LaunchFromReset := by
  intro image cfg inp rest nonempty fits off start loads
  have fresh : UnchangedBut [.mem, .cfg, .script] State.reset { State.reset with cfg, script := inp :: rest } := by
    intro p hp; cases p <;> simp_all [Part.same, State.reg]
  exact ⟨_, step_of_idle _ off rfl, launchedWith_idle_step nonempty fits fresh (fun _ => rfl) start loads,
    unchangedBut_idle_step _ .cfg (by decide)⟩

/-! ## The end of a program -/

/-- Settles O53: of what phases T and K may write, the run state is as before, since no `Quit` was taken. -/
theorem selfJumpIsTheEnd : Obligations.SelfJumpIsTheEnd := by
  intro s ends off q
  have running : s.behindTK.runState = .running := s.behindTK_running ends.1 q
  have still := atEnd_behindTK_retire_endStep s.wordAtPc ends q
  have ended := (unchangedBut_retire s.behindTK s.wordAtPc).trans (unchangedBut_endStep _)
  have frame : UnchangedBut [.runState, .dt, .st, .key, .ir, .pending, .frameReady, .script, .time] s
      (s.behindTK.retire s.wordAtPc).endStep := ((unchangedBut_behindTK s).trans ended).mono (by decide)
  refine ⟨_, step_of_atEnd ends off q, still, ?_, frame.of_same (still.1.trans ends.1.symm)⟩
  rw [State.endStep_ir, State.retire_of_not_faulted _ _ (by simp [running])]

end Sys2Proof.Machine
end
